-- ==== Sys2Proof/Word.lean ====
section
/-! DEFINITION. The word types of the engine: bytes and 16-bit command words (R57, R71). -/

namespace Sys2Proof

/-- An unsigned byte (R11): SEND's operand, RECV's result, a buffer byte. -/
abbrev Byte := BitVec 8

/-- A 16-bit command word, presented whole in one handshake (R57, R71). -/
abbrev Cmd := BitVec 16

end Sys2Proof
end

