-- ==== Sys2Proof/Syntax.lean ====
section
/-! DEFINITION. The commands (one constructor per row of the opcode table), the micro-operations they are made of,
the host's operations, the pseudo-instructions, and the names the engine's coded fields take. -/

namespace Sys2Proof

/-- The four commands (R2, R72). The `bus` operand of the source is the engine that receives the word (R73). -/
inductive Instr where
  /-- START (R124): no operand. -/
  | start
  /-- STOP (R127): no operand. -/
  | stop
  /-- SEND (R130): the byte to send, `cmd[15:8]`. -/
  | send (value : Byte)
  /-- RECV (R134): `cmd[2]`, true requests ACK and false requests NACK. -/
  | recv (ack : Bool)
  deriving DecidableEq, Repr

/-- The two open-drain lines (R13, R100). -/
inductive Line where
  | scl
  | sda
  deriving DecidableEq, Repr

/-- The micro-operations of the commands' tables (R124, R127, R130, R134). The host cannot issue them: they have no
encoding (40_gpio_line.md). -/
inductive MicroOp where
  /-- `SET(pin, v)`: true releases the line, false drives it low (R101). -/
  | set (pin : Line) (v : Bool)
  /-- `SET(SDA, SHIFT[k])` (R130). -/
  | setShiftBit (k : Fin 8)
  /-- `SET(SDA, ACKREQ ? 0 : 1)` (R134). -/
  | setAckReq
  /-- `DELAY()` (R104). -/
  | delay
  /-- `ACKBIT <- SAMPLE(SDA)` (R130). -/
  | sampleAck
  /-- `SHIFT[k] <- SAMPLE(SDA)` (R134). -/
  | sampleBit (k : Fin 8)
  deriving DecidableEq, Repr

/-- The values of LIFE (R22). The code 3 is never written, so no constructor stands for it. -/
inductive Life where
  | unconfigured
  | configured
  | tornDown
  deriving DecidableEq, Repr

/-- The named states of FSM_STATE (R17, R27). The codes 5, 6 and 7 are never written. -/
inductive FsmState where
  | idle
  | startAsserted
  | bitTransfer
  | ackPhase
  | stopAsserted
  deriving DecidableEq, Repr

/-- The values of OP (R28). -/
inductive Op where
  | start
  | stop
  | send
  | recv
  deriving DecidableEq, Repr

/-- The status codes 0 to 6 (R200). The code 7 is never produced. -/
inductive Status where
  | ok
  | invalidArgument
  | busError
  | timeout
  | outOfResources
  | configurationError
  | illegalCommand
  deriving DecidableEq, Repr, Inhabited

/-- What a pin does for the engine: R38's high impedance (input), or R108's open-drain output. -/
inductive PinMode where
  | highImpedance
  | openDrain
  deriving DecidableEq, Repr

/-- One row of a command's micro-operation table: the micro-operation and the FSM_STATE it runs in. -/
structure MicroRow where
  op  : MicroOp
  fsm : FsmState
  deriving DecidableEq, Repr

/-- The direction of a transfer (R161). -/
inductive Direction where
  | read
  | write
  deriving DecidableEq, Repr

/-- The bytes of a transfer buffer, by index, in canonical form (R51; `Memory.wf`). -/
abbrev Memory := List Host.Cell

/-- A DeviceAddress: a 7-bit address and a direction (R79, R161). -/
structure Device where
  addr7 : BitVec 7
  dir   : Direction
  deriving DecidableEq, Repr

/-- A TransferRequest: the buffer, its length and a direction (R161). A length of 0 is representable. -/
structure Request where
  buf : Memory
  len : Nat
  dir : Direction
  deriving DecidableEq, Repr

/-- What a host caller may do with one bus: issue a raw command word (R82), run TRANSFER (R161), INIT (R242) or
TEARDOWN (R245). `init none` is a configuration source that answers `fail`; otherwise it answers the SCL pin id,
the SDA pin id and the clock rate (R226). -/
inductive HostOp where
  | issue (cmd : Cmd)
  | init (answer : Option (Nat × Nat × Nat))
  | teardown
  | transfer (bus : Bool) (dev : Option Device) (req : Option Request)
  deriving DecidableEq, Repr

/-- A line of the assembler: a command of R82 or a pseudo-instruction of R83. -/
inductive AsmLine where
  | cmd (i : Instr)
  | addrw (a7 : BitVec 7)
  | addrr (a7 : BitVec 7)
  | recvlast
  | write (a7 : BitVec 7) (bytes : List Byte)
  | read (a7 : BitVec 7) (n : Nat)
  deriving DecidableEq, Repr

end Sys2Proof
end

