-- ==== Sys2Proof/Decode.lean ====
section
/-! DEFINITION. Decoding a command word (R71 to R75), and the encoder (R72, R82). -/

namespace Sys2Proof

/-- Why a word is illegal: which field its opcode does not use is nonzero (R74). -/
inductive Illegal where
  /-- `cmd[7:3] != 0`, for any opcode. -/
  | reservedNonzero
  /-- `cmd[2] = 1` with START, STOP or SEND. -/
  | ackOutsideRecv
  /-- `cmd[15:8] != 0` with START, STOP or RECV. -/
  | dataOutsideSend
  deriving DecidableEq, Repr

/-- The fields of a command word, pulled out once (R71). -/
structure Fields where
  op   : BitVec 2
  ack  : Bool
  rsv  : BitVec 5
  data : Byte
  deriving DecidableEq, Repr

/-- `OP = cmd[1:0]`, `ACK = cmd[2]`, `RSV = cmd[7:3]`, `DATA = cmd[15:8]` (R71). -/
def fieldsOf (w : Cmd) : Fields :=
  { op := w.extractLsb' 0 2
    ack := w.getLsbD 2
    rsv := w.extractLsb' 3 5
    data := w.extractLsb' 8 8 }

/-- OP picks the candidate row, then the row's fixed bits are checked (R75). -/
def decodeFields (f : Fields) : Except Illegal Instr :=
  if f.rsv ≠ 0#5 then .error .reservedNonzero
  else if f.op = 0#2 then
    if f.ack then .error .ackOutsideRecv else if f.data ≠ 0#8 then .error .dataOutsideSend else .ok .start
  else if f.op = 1#2 then
    if f.ack then .error .ackOutsideRecv else if f.data ≠ 0#8 then .error .dataOutsideSend else .ok .stop
  else if f.op = 2#2 then
    if f.ack then .error .ackOutsideRecv else .ok (.send f.data)
  else
    if f.data ≠ 0#8 then .error .dataOutsideSend else .ok (.recv f.ack)

/-- Decoding is total: every word is one of the four commands or illegal (R75). -/
def decode (w : Cmd) : Except Illegal Instr :=
  decodeFields (fieldsOf w)

/-- The word of an instruction (R72, R82). -/
def encode : Instr → Cmd
  | .start => 0x0000#16
  | .stop => 0x0001#16
  | .send b => (b.setWidth 16 <<< 8) ||| 0x0002#16
  | .recv ack => if ack then 0x0007#16 else 0x0003#16

/-- A row of the opcode map: a word selects it when `(cmd & mask) = pattern` (R72). -/
structure OpcodeRow where
  mnemonic : String
  pattern  : Cmd
  mask     : Cmd
  deriving DecidableEq, Repr

/-- The opcode map (R72). -/
def opcodeMap : List OpcodeRow :=
  [ { mnemonic := "START", pattern := 0x0000#16, mask := 0xFFFF#16 },
    { mnemonic := "STOP", pattern := 0x0001#16, mask := 0xFFFF#16 },
    { mnemonic := "SEND", pattern := 0x0002#16, mask := 0x00FF#16 },
    { mnemonic := "RECV", pattern := 0x0003#16, mask := 0xFFFB#16 } ]

/-- Whether a word selects a row (R72). -/
def OpcodeRow.selects (r : OpcodeRow) (w : Cmd) : Bool :=
  (w &&& r.mask) == r.pattern

/-- The row an instruction belongs to (R72). -/
def mnemonicOf : Instr → String
  | .start => "START"
  | .stop => "STOP"
  | .send _ => "SEND"
  | .recv _ => "RECV"

/-- The command word whose bits are the low `nbits` bits of `w`, the bits above them zero. -/
def wordOfBits (nbits w : Nat) : Cmd :=
  BitVec.ofNat 16 (w % 2 ^ nbits)

/-- The instruction the decoder reads from a table row's bits: one 16-bit word, presented whole (R57, R71). -/
def decodeTableWord (nbits w : Nat) : Option Instr :=
  match decode (wordOfBits nbits w) with
  | .ok i => some i
  | .error _ => none

end Sys2Proof
end

