-- ==== Sys2Proof/Config.lean ====
section
/-! DEFINITION. What an implementation fixes: the source's three literals as named constants (R9), the open
parameters, and the free values the spec leaves to the environment. A free value has no body: a statement about it
holds whatever it is. -/

namespace Sys2Proof

/-- RETRY_BUDGET, the attempts of one TRANSFER (R9, R164). -/
abbrev Config.retryBudget : Nat := 3

/-- DEADLINE_US, the per-attempt payload deadline in microseconds (R9, R170). -/
abbrev Config.deadlineUs : Nat := 1000000

/-- BACKOFF_US, the wait between failed attempts in microseconds (R9, R172). -/
abbrev Config.backoffUs : Nat := 1000

/-- The parameters R9 leaves OPEN, but for HALF_BIT_ROUNDING, which no step reads. Each is at least 1 (`Params.wf`). -/
structure Params where
  /-- PIN_W, the width of a pin id. -/
  pinW   : Nat
  /-- RATE_W, the width of the clock-rate field. -/
  rateW  : Nat
  /-- MAX_LEN, the largest transfer length. -/
  maxLen : Nat
  /-- NUM_CALLERS, the host contexts that may issue commands to one bus. -/
  numCallers : Nat
  /-- NUM_BUSES, the independent engine instances. -/
  numBuses : Nat
  deriving DecidableEq, Repr

/-- PIN_W less 1: OPEN (R9, D12). DESIGN CHOICE: log entry 10 (safe). -/
opaque Config.pinWLessOne : Nat

/-- RATE_W less 1: OPEN (R9, D12). DESIGN CHOICE: log entry 10 (safe). -/
opaque Config.rateWLessOne : Nat

/-- MAX_LEN less 1: OPEN (R9, D19). DESIGN CHOICE: log entry 10 (safe). -/
opaque Config.maxLenLessOne : Nat

/-- NUM_CALLERS less 1: OPEN (R9, D8). DESIGN CHOICE: log entry 10 (safe). -/
opaque Config.numCallersLessOne : Nat

/-- NUM_BUSES less 1: OPEN (R9, D28). DESIGN CHOICE: log entry 10 (safe). -/
opaque Config.numBusesLessOne : Nat

/-- The parameters of this realisation, each at least 1 by construction. -/
def Config.params : Params :=
  { pinW := Config.pinWLessOne + 1, rateW := Config.rateWLessOne + 1, maxLen := Config.maxLenLessOne + 1
    numCallers := Config.numCallersLessOne + 1, numBuses := Config.numBusesLessOne + 1 }

/-- HALF_BIT_ROUNDING: how a realisation turns T_HALF into whole microseconds, OPEN (R9, R105, D3). -/
opaque Config.halfBitRounding : ℚ → Nat

/-! The free values: a first argument says whose draws they are, the stream of one bus (log entry 19), the second which draw. -/

/-- ENV_SDA_REL as the environment draws it (R35, R102). Free value, log entry 4 (safe). -/
opaque Config.freeSdaRel : Nat → Nat → Bool

/-- ENV_SCL_REL as the environment draws it (R35). Free value, log entry 4 (safe). -/
opaque Config.freeSclRel : Nat → Nat → Bool

/-- How far NOW() has moved on since the same caller's last reading (R220). Free value, log entry 5 (safe). -/
opaque Config.freeElapsed : Nat → Nat → Nat

/-- Whether INIT's allocation fails (R242, D35). Free value, log entry 4 (safe). -/
opaque Config.freeAllocFails : Nat → Nat → Bool

/-- Which of several callers moves next (R229, D8). Free value, log entry 7 (safe). -/
opaque Config.freeGrant : Nat → Nat → Nat

/-- MPC while FSM_STATE = IDLE, after a command completed (R29). Free value, log entry 6 (safe). -/
opaque Config.freeIdleMpc : Nat → Nat → BitVec 6

/-- RSP_STATUS while RSP_VALID = 0, after an acceptance (R33). Free value, log entry 6 (safe). -/
opaque Config.freeRspStatus : Nat → Nat → Status

/-- RSP_DATA while RSP_VALID = 0, after an acceptance (R33). Free value, log entry 6 (safe). -/
opaque Config.freeRspData : Nat → Nat → Byte

end Sys2Proof
end

