-- ==== Sys2Proof/Machine/State.lean ====
section
/-! DEFINITION. The state of one bus: the engine's tuple (R20), the environment's drive (R35), the host callers
(R18, R160) and the draws. Plain data. A 1-bit register is a Bool, true for 1; on a line, 1 is released (R25). -/

namespace Sys2Proof.Machine

/-- CFG, the configuration record (R23). Legal values: `Cfg.legal`. -/
structure Cfg where
  sclPin    : Nat
  sdaPin    : Nat
  clockRate : Nat
  deriving DecidableEq, Repr

/-- The entries of TRACE (R36). -/
inductive Event where
  | set (pin : Line) (v : Bool)
  | delay
  | sample (v : Bool)
  | configure (pin : Line)
  | accept (cmd : Cmd)
  | done (status : Status) (data : Byte)
  deriving DecidableEq, Repr

/-- The environment's drive on the two lines: true means no external device pulls the line low (R35). -/
structure Drive where
  sdaRel : Bool
  sclRel : Bool
  deriving DecidableEq, Repr

/-- The draws of a run. A draw takes the head of its list; an empty list leaves it to the free value of `Config` at
`stream` and `draws`, and `draws` then moves on. The lists let a premise fix draws, as R109 and R220 have claims do (log entry 4). -/
structure Inputs where
  /-- The environment's drives at the coming SAMPLEs. -/
  env     : List Drive
  /-- The microseconds by which the coming NOW()s move on. -/
  elapsed : List Nat
  /-- Whether the coming INITs' allocations fail. -/
  alloc   : List Bool
  /-- Which caller moves at the coming free choices. -/
  grant   : List Nat
  /-- Whose draws they are: the free values of different streams are unrelated, and each bus has a stream of its own (R19, R109,
  R228; log entry 19). No step changes it. -/
  stream  : Nat
  /-- The model's own counter. -/
  draws   : Nat
  deriving DecidableEq, Repr

/-- Why TRANSFER issues an attempt's STOP: the address was NACKed (R167), the payload loop ended (R164, step 2d), or the
deadline passed (R171). -/
inductive StopWhy where
  | addrNack
  | payloadDone
  | deadline
  deriving DecidableEq, Repr

/-- The program points of TRANSFER (R164). -/
inductive Point where
  /-- `T0 <- NOW()`. -/
  | readT0
  /-- `issue(START)`. -/
  | issueStart
  /-- `issue(SEND a)`. -/
  | issueAddr
  /-- `NOW() - T0 > DEADLINE_US`. -/
  | check
  /-- `issue` of payload byte I's command. -/
  | issuePayload
  /-- `issue(STOP)`. -/
  | issueStop (why : StopWhy)
  /-- `WAIT_US(BACKOFF_US)`. -/
  | backoff
  deriving DecidableEq, Repr

/-- One call of TRANSFER in progress: its inputs (R161) and its state (R160). -/
structure Call where
  addr7   : BitVec 7
  dir     : Direction
  len     : Nat
  buf     : Memory
  attempt : Nat
  t0      : Nat
  last    : Status
  st      : Status
  idx     : Nat
  point   : Point
  deriving DecidableEq, Repr

/-- What a host caller did and got, in its program order: the host's history (R57). -/
inductive HostEvent where
  | issued (cmd : Cmd)
  | response (status : Status) (data : Byte)
  | now (t : Nat)
  | waitUs (n : Nat)
  | memRead (i : Nat) (v : Byte)
  | memWrite (i : Nat) (v : Byte)
  | initReturned (status : Status)
  | teardownReturned (status : Status)
  | transferReturned (status : Status) (buf : Memory)
  deriving DecidableEq, Repr

/-- One host caller (R18). -/
structure Caller where
  /-- What it has still to do. -/
  todo        : List HostOp
  /-- What it begins again with whenever `todo` is empty, for ever; empty for a caller that ends (R231; log entry 24). -/
  again       : List HostOp
  /-- Whether its TEARDOWN has found LIFE = CONFIGURED and waits for GUARD = 0 (R245). -/
  tearingDown : Bool
  /-- The TRANSFER it is in (R160). -/
  call        : Option Call
  /-- Its last NOW() (R220). -/
  clock       : Nat
  /-- Its history (R57). -/
  history     : List HostEvent
  deriving DecidableEq, Repr

/-- A caller that has done nothing and has nothing to do. -/
def Caller.fresh : Caller :=
  { todo := [], again := [], tearingDown := false, call := none, clock := 0, history := [] }

/-- The state of one bus instance (R20, R35, R160). -/
structure State where
  /-- LIFE (R22). -/
  life      : Life
  /-- CFG (R23). -/
  cfg       : Cfg
  /-- GUARD (R24). -/
  guard     : Bool
  /-- FSM_STATE (R27). -/
  fsm       : FsmState
  /-- OP (R28). -/
  op        : Op
  /-- MPC (R29). -/
  mpc       : BitVec 6
  /-- SHIFT (R30). -/
  shift     : Byte
  /-- ACKREQ (R31). -/
  ackReq    : Bool
  /-- ACKBIT (R32). -/
  ackBit    : Bool
  /-- SCL_OUT (R25). -/
  sclOut    : Bool
  /-- SDA_OUT (R25). -/
  sdaOut    : Bool
  /-- Whether the SCL pin is an open-drain output (R108, R38). -/
  sclMode   : PinMode
  /-- Whether the SDA pin is an open-drain output (R108, R38). -/
  sdaMode   : PinMode
  /-- RSP_VALID (R33). -/
  rspValid  : Bool
  /-- RSP_STATUS (R33). -/
  rspStatus : Status
  /-- RSP_DATA (R33). -/
  rspData   : Byte
  /-- TRACE (R36). -/
  trace     : List Event
  /-- ENV_SDA_REL and ENV_SCL_REL as last drawn (R35). -/
  env       : Drive
  /-- The draws. -/
  inputs    : Inputs
  /-- `cmd_valid` and `cmd`: the command word presented (R70, R76). -/
  port      : Option Cmd
  /-- The caller whose command is presented, is running, or has a response to collect. -/
  owner     : Option Nat
  /-- The host callers of this bus, NUM_CALLERS of them (R9, R18). -/
  callers   : List Caller
  /-- The open parameters of this realisation (R9); no step changes them. -/
  params    : Params
  deriving DecidableEq, Repr

/-- Why the machine stops with a fault. -/
inductive Fault where
  /-- Raised by a command's meaning and by `hostStep`: a command waits while LIFE = UNCONFIGURED and no caller can move
  (U16, D22: stuck). Safe. -/
  | stuckUnconfigured
  /-- Raised by a command's meaning and by `hostStep`: a command waits while LIFE = TORN_DOWN (U16, D22: stuck). Safe. -/
  | stuckTornDown
  /-- Raised by a command's meaning: GUARD = 1 and MPC is at or past the end of its table (U13, unreachable). Safe. -/
  | mpcBeyondTable
  /-- Raised by TRANSFER: a buffer index outside 0 .. len-1 (R51, never formed). Safe. -/
  | bufferIndex
  deriving DecidableEq, Repr

/-- Why the machine gives no meaning. -/
inductive Refusal where
  /-- Raised by `exec` for an instruction without a meaning; no arm does so now. Safe. -/
  | notModelled (mnemonic : String)
  /-- Raised by INIT outside UNCONFIGURED (R241, U15). Safe. -/
  | initOutsideUnconfigured
  /-- Raised by TEARDOWN outside CONFIGURED (R241, U15), at its check of LIFE (R245). Safe. -/
  | teardownOutsideConfigured
  /-- Raised by TRANSFER when `dev.dir` differs from `req.dir` (R163, U14). Safe. -/
  | directionMismatch
  /-- Raised by TRANSFER for a length above MAX_LEN (R9, R161; log entry 11). Safe. -/
  | lengthAboveMaxLen
  deriving DecidableEq, Repr

/-- A step's outcome. -/
abbrev StepOutcome := Host.Outcome State Fault Refusal

/-- Values for the elements that R38 leaves unspecified after power-on. -/
structure Unspecified where
  cfg       : Cfg
  op        : Op
  mpc       : BitVec 6
  shift     : Byte
  ackReq    : Bool
  ackBit    : Bool
  rspStatus : Status
  rspData   : Byte
  deriving DecidableEq, Repr

/-- The machine right after power-on reset (R38, R240), whatever the unspecified elements hold: R39 gives them no value. The environment's
drive is log entry 3, the host side log entry 9. -/
def State.powerOn (u : Unspecified) : State :=
  { life := .unconfigured
    cfg := u.cfg
    guard := false
    fsm := .idle
    op := u.op
    mpc := u.mpc
    shift := u.shift
    ackReq := u.ackReq
    ackBit := u.ackBit
    sclOut := true
    sdaOut := true
    sclMode := .highImpedance
    sdaMode := .highImpedance
    rspValid := false
    rspStatus := u.rspStatus
    rspData := u.rspData
    trace := []
    env := { sdaRel := true, sclRel := true }
    inputs := { env := [], elapsed := [], alloc := [], grant := [], stream := 0, draws := 0 }
    port := none
    owner := none
    callers := List.replicate Config.params.numCallers Caller.fresh
    params := Config.params }

/-- The values `State.reset` names for the unspecified elements. DESIGN CHOICE: log entry 2 (unsafe); no step reads one of them. -/
def Unspecified.named : Unspecified :=
  { cfg := { sclPin := 0, sdaPin := 0, clockRate := 0 }
    op := .start
    mpc := 0#6
    shift := 0#8
    ackReq := false
    ackBit := false
    rspStatus := .ok
    rspData := 0#8 }

/-- The machine right after power-on reset, with the unspecified elements at the values log entry 2 names. -/
def State.reset : State :=
  State.powerOn Unspecified.named

end Sys2Proof.Machine
end

