-- ==== Sys2Proof/Machine/Ops.lean ====
section
/-! DEFINITION. The named operations over the engine's registers, the lines, TRACE and the draws: the line
micro-operations of 40_gpio_line.md and the response registers. -/

namespace Sys2Proof.Machine

/-! ### TRACE, drivers, MPC -/

/-- `TRACE <- TRACE ++ [e]` (R36): TRACE is append-only. -/
def State.record (s : State) (e : Event) : State :=
  { s with trace := s.trace ++ [e] }

/-- Write one line's driver register (R25). -/
def State.drive (s : State) (l : Line) (v : Bool) : State :=
  match l with
  | .scl => { s with sclOut := v }
  | .sda => { s with sdaOut := v }

/-- `MPC <- MPC + 1` (R29). -/
def State.advanceMpc (s : State) : State :=
  { s with mpc := s.mpc + 1#6 }

/-- Write FSM_STATE (R27). -/
def State.putFsm (s : State) (f : FsmState) : State :=
  { s with fsm := f }

/-- Write ACKBIT (R32). -/
def State.putAckBit (s : State) (v : Bool) : State :=
  { s with ackBit := v }

/-- A byte with bit `k` set to `v` and the other bits kept. -/
def setBit (b : Byte) (k : Fin 8) (v : Bool) : Byte :=
  if v then b ||| (1#8 <<< k.val) else b &&& ~~~(1#8 <<< k.val)

/-- `SHIFT[k] <- v` (R30). -/
def State.putShiftBit (s : State) (k : Fin 8) (v : Bool) : State :=
  { s with shift := setBit s.shift k v }

/-! ### Draws -/

/-- The environment's drive at the coming SAMPLE (R35, R102). -/
def Inputs.nextDrive (x : Inputs) : Drive :=
  match x.env with
  | d :: _ => d
  | [] => { sdaRel := Config.freeSdaRel x.stream x.draws, sclRel := Config.freeSclRel x.stream x.draws }

/-- The inputs after a drive was drawn. -/
def Inputs.dropDrive (x : Inputs) : Inputs :=
  match x.env with
  | _ :: ds => { x with env := ds }
  | [] => { x with draws := x.draws + 1 }

/-- How far the coming NOW() has moved on since the same caller's last one (R220). -/
def Inputs.nextElapsed (x : Inputs) : Nat :=
  match x.elapsed with
  | d :: _ => d
  | [] => Config.freeElapsed x.stream x.draws

/-- The inputs after a time reading. -/
def Inputs.dropElapsed (x : Inputs) : Inputs :=
  match x.elapsed with
  | _ :: ds => { x with elapsed := ds }
  | [] => { x with draws := x.draws + 1 }

/-- The draw `alloc_fails` of the coming INIT (R242, D35). -/
def Inputs.nextAllocFails (x : Inputs) : Bool :=
  match x.alloc with
  | d :: _ => d
  | [] => Config.freeAllocFails x.stream x.draws

/-- The inputs after an allocation draw. -/
def Inputs.dropAlloc (x : Inputs) : Inputs :=
  match x.alloc with
  | _ :: ds => { x with alloc := ds }
  | [] => { x with draws := x.draws + 1 }

/-- The coming free choice among callers (R229, D8). -/
def Inputs.nextGrant (x : Inputs) : Nat :=
  match x.grant with
  | d :: _ => d
  | [] => Config.freeGrant x.stream x.draws

/-- The inputs after a choice among callers. -/
def Inputs.dropGrant (x : Inputs) : Inputs :=
  match x.grant with
  | _ :: ds => { x with grant := ds }
  | [] => { x with draws := x.draws + 1 }

/-! ### Lines (R26, R103) -/

/-- `SDA_LINE = SDA_OUT && ENV_SDA_REL` (R26, R103). -/
def State.sdaLine (s : State) : Bool :=
  s.sdaOut && s.env.sdaRel

/-- `SCL_LINE = SCL_OUT && ENV_SCL_REL` (R26, R103). -/
def State.sclLine (s : State) : Bool :=
  s.sclOut && s.env.sclRel

/-! ### Micro-operations (40_gpio_line.md) -/

/-- `SET(pin, v)` (R101). -/
def State.microSet (s : State) (l : Line) (v : Bool) : State :=
  ((s.drive l v).record (.set l v)).advanceMpc

/-- `DELAY()` (R104): nothing changes but elapsed time, which is no state (R105). -/
def State.microDelay (s : State) : State :=
  (s.record .delay).advanceMpc

/-- The environment chooses its drive (R35, R102). -/
def State.drawDrive (s : State) : State :=
  { s with env := s.inputs.nextDrive, inputs := s.inputs.dropDrive }

/-- The level the coming `SAMPLE(SDA)` returns: `SDA_OUT && e` for the drawn drive e (R102). -/
def State.sampleLevel (s : State) : Bool :=
  s.drawDrive.sdaLine

/-- `SAMPLE(SDA)` (R102); its result is `sampleLevel`. -/
def State.microSample (s : State) : State :=
  (s.drawDrive.record (.sample s.sampleLevel)).advanceMpc

/-- Perform one micro-operation, which advances MPC (R101, R102, R104, R121). -/
def State.perform (s : State) (m : MicroOp) : State :=
  match m with
  | .set l v => s.microSet l v
  | .setShiftBit k => s.microSet .sda (s.shift.getLsbD k.val)
  | .setAckReq => s.microSet .sda (!s.ackReq)
  | .delay => s.microDelay
  | .sampleAck => s.microSample.putAckBit s.sampleLevel
  | .sampleBit k => s.microSample.putShiftBit k s.sampleLevel

/-! ### CONFIGURE and the SETs of INIT and TEARDOWN, which do not touch MPC (R108, R242, R245) -/

/-- `CONFIGURE(pin)`: the pin becomes an open-drain output (R108). -/
def State.configurePin (s : State) (l : Line) : State :=
  match l with
  | .scl => { s with sclMode := .openDrain, trace := s.trace ++ [.configure .scl] }
  | .sda => { s with sdaMode := .openDrain, trace := s.trace ++ [.configure .sda] }

/-- Release a line and record it, as INIT and TEARDOWN do (R242, R245). -/
def State.releaseLine (s : State) (l : Line) : State :=
  (s.drive l true).record (.set l true)

/-- The pins return to input, high impedance (R245). -/
def State.unconfigurePins (s : State) : State :=
  { s with sclMode := .highImpedance, sdaMode := .highImpedance }

/-! ### Response registers and the guard (R33, R121) -/

/-- A response: status, data, `Done` in TRACE, RSP_VALID set (R76, R121). -/
def State.respond (s : State) (st : Status) (d : Byte) : State :=
  { s with rspStatus := st, rspData := d, rspValid := true, trace := s.trace ++ [.done st d] }

/-- The word leaves the port, `Accept(cmd)` is recorded and RSP_VALID is cleared (R76, R121). -/
def State.takeWord (s : State) (w : Cmd) : State :=
  { s with port := none, rspValid := false, trace := s.trace ++ [.accept w] }

/-- RSP_STATUS and RSP_DATA have no defined value while RSP_VALID = 0 after an acceptance (R33): free values. -/
def State.forgetResponse (s : State) : State :=
  { s with
    rspStatus := Config.freeRspStatus s.inputs.stream s.inputs.draws
    rspData := Config.freeRspData s.inputs.stream s.inputs.draws
    inputs := { s.inputs with draws := s.inputs.draws + 1 } }

/-- The Critical Section Guard is acquired, and OP, MPC and FSM_STATE are set up (R58, R121). -/
def State.acquire (s : State) (op : Op) (f : FsmState) : State :=
  { s with guard := true, op := op, mpc := 0#6, fsm := f }

/-- The engine is idle and the guard is free (R121); MPC is then unspecified (R29): a free value. -/
def State.release (s : State) : State :=
  { s with
    fsm := .idle
    guard := false
    mpc := Config.freeIdleMpc s.inputs.stream s.inputs.draws
    inputs := { s.inputs with draws := s.inputs.draws + 1 } }

/-- An illegal word completes at once: no guard, no line event (R74, R121, R202). -/
def State.acceptIllegal (s : State) (w : Cmd) : State :=
  (s.takeWord w).respond .illegalCommand 0x00#8

end Sys2Proof.Machine
end

