-- ==== Sys2Proof/Machine/Operands.lean ====
section
/-! DEFINITION. Operands: what acceptance copies from the command word (R73), the command in flight, and the address
byte the host builds (R78, R166). -/

namespace Sys2Proof.Machine

/-- `OP <- cmd[1:0]` (R121). -/
def opOf : Instr → Op
  | .start => .start
  | .stop => .stop
  | .send _ => .send
  | .recv _ => .recv

/-- START and STOP have no operand (R73). -/
def State.loadNothing (s : State) : State := s

/-- SEND: `SHIFT <- cmd[15:8]` (R73, R121). -/
def State.loadShift (s : State) (b : Byte) : State :=
  { s with shift := b }

/-- RECV: `ACKREQ <- cmd[2]` (R73, R121). -/
def State.loadAckReq (s : State) (ack : Bool) : State :=
  { s with ackReq := ack }

/-- The command in flight: OP with the operand its registers hold. SEND reads SHIFT and does not change it (R130), and
RECV reads ACKREQ (R134). -/
def State.inFlight (s : State) : Instr :=
  match s.op with
  | .start => .start
  | .stop => .stop
  | .send => .send s.shift
  | .recv => .recv s.ackReq

/-- RW: 1 for a read, 0 for a write (R78). -/
def rwBit : Direction → Byte
  | .read => 1#8
  | .write => 0#8

/-- The address byte `(zext_8(addr7) << 1) | RW` (R78, R166). -/
def addressByte (a7 : BitVec 7) (dir : Direction) : Byte :=
  (a7.setWidth 8 <<< 1) ||| rwBit dir

end Sys2Proof.Machine
end

