-- ==== Sys2Proof/Machine/Flags.lean ====
section
/-! DEFINITION. The engine's one condition flag ACKBIT and what each command reports (R32, R77, R130, R132, R134). -/

namespace Sys2Proof.Machine

/-- A command that always succeeds (R124, R127, R134). -/
def statusOk (_ : State) : Status := .ok

/-- SEND: OK if ACKBIT = 0, BUS_ERROR if ACKBIT = 1 (R130, R132). -/
def statusOfAckBit (s : State) : Status :=
  if s.ackBit then .busError else .ok

/-- RSP_DATA of START, STOP and SEND (R77). -/
def dataZero (_ : State) : Byte := 0x00#8

/-- RSP_DATA of RECV: the received byte (R77, R134). -/
def dataShift (s : State) : Byte := s.shift

end Sys2Proof.Machine
end

