-- ==== Sys2Proof/Machine/Engine.lean ====
section
/-! DEFINITION. One engine step of one command (R121, R138): acceptance, or one micro-operation, with completion in the
step of the last one. -/

namespace Sys2Proof.Machine

/-- `cmd_ready = LIFE = CONFIGURED && GUARD = 0` (R70, R76). -/
def State.cmdReady (s : State) : Bool :=
  decide (s.life = .configured) && !s.guard

/-- The FSM_STATE of a table's micro-operation `n` (R121); IDLE past the table's end. -/
def fsmAt (table : List MicroRow) (n : Nat) : FsmState :=
  match table[n]? with
  | some r => r.fsm
  | none => .idle

/-- A legal command is accepted (R121): `load` copies its operand. No micro-operation is performed. -/
def State.accept (s : State) (i : Instr) (table : List MicroRow) (load : State → State) : State :=
  load (((s.takeWord (encode i)).forgetResponse).acquire (opOf i) (fsmAt table 0))

/-- `complete()` (R121). -/
def State.complete (s : State) (st : Status) (d : Byte) : State :=
  (s.respond st d).release

/-- What follows a micro-operation: completion when MPC equals the table's length, else the next FSM_STATE (R121). -/
def State.afterMicro (s : State) (table : List MicroRow) (status : State → Status) (data : State → Byte) : State :=
  if s.mpc.toNat = table.length then s.complete (status s) (data s)
  else s.putFsm (fsmAt table s.mpc.toNat)

/-- One engine step of the command in flight: micro-operation MPC of its table (R121). -/
def microStep (table : List MicroRow) (status : State → Status) (data : State → Byte) (s : State) : StepOutcome :=
  match table[s.mpc.toNat]? with
  | some row => .next ((s.perform row.op).afterMicro table status data)
  | none => .fault .mpcBeyondTable

/-- The engine step of command `i`. With the guard free it is `i`'s acceptance, if LIFE = CONFIGURED; a command presented
before INIT or after TEARDOWN is stuck (U16, D22). With the guard held by `i` it is `i`'s next micro-operation; any other
command presented then waits and nothing changes (R58, R76). DESIGN CHOICE: log entry 1 (safe). -/
def commandStep (i : Instr) (table : List MicroRow) (load : State → State) (status : State → Status)
    (data : State → Byte) (s : State) : StepOutcome :=
  match s.guard with
  | true => if s.inFlight = i then microStep table status data s else .next s
  | false =>
    match s.life with
    | .configured => .next (s.accept i table load)
    | .unconfigured => .fault .stuckUnconfigured
    | .tornDown => .fault .stuckTornDown

end Sys2Proof.Machine
end

