-- ==== Sys2Proof/Machine/Lifecycle.lean ====
section
/-! DEFINITION. The lifecycle operations INIT and TEARDOWN (R241, R242, R245). -/

namespace Sys2Proof.Machine

/-- INIT's effect once its checks have passed (R242): CFG, both pins configured, both lines released, SCL first. -/
def State.initialise (s : State) (scl sda rate : Nat) : State :=
  let s1 : State := { s with cfg := { sclPin := scl, sdaPin := sda, clockRate := rate } }
  let s2 := (s1.configurePin .scl).configurePin .sda
  let s3 := (s2.releaseLine .scl).releaseLine .sda
  { s3 with guard := false, fsm := .idle, rspValid := false, life := .configured }

/-- The draw `alloc_fails` is taken (R242, D35). -/
def State.drawAlloc (s : State) : State :=
  { s with inputs := s.inputs.dropAlloc }

/-- A pin id or a clock rate that its field cannot hold, an illegal value of CFG (R23). -/
def Params.tooWide (p : Params) (scl sda rate : Nat) : Bool :=
  decide (2 ^ p.pinW ≤ scl) || decide (2 ^ p.pinW ≤ sda) || decide (2 ^ p.rateW ≤ rate)

/-- `INIT(config_source)` (R242): the new state and the status returned. The configuration checks come before the
allocation (R208). R23 has INIT reject every illegal value of CFG with a configuration error, a value wider than its field among them
(DEDUCED: log entry 11). On a failure no engine state changes. Outside UNCONFIGURED it is refused (R241). -/
def State.init (s : State) (answer : Option (Nat × Nat × Nat)) : Host.Outcome (State × Status) Fault Refusal :=
  match s.life with
  | .unconfigured =>
    match answer with
    | none => .next (s, .configurationError)
    | some (scl, sda, rate) =>
      if Params.tooWide s.params scl sda rate then .next (s, .configurationError)
      else if rate = 0 then .next (s, .configurationError)
      else if scl = sda then .next (s, .configurationError)
      else if s.inputs.nextAllocFails then .next (s.drawAlloc, .outOfResources)
      else .next (s.drawAlloc.initialise scl sda rate, .ok)
  | .configured => .refused .initOutsideUnconfigured
  | .tornDown => .refused .initOutsideUnconfigured

/-- TEARDOWN's check of LIFE, before its wait for GUARD = 0 (R245): outside CONFIGURED it is refused (R241). -/
def State.teardownRefused (s : State) : Option Refusal :=
  match s.life with
  | .configured => none
  | .unconfigured => some .teardownOutsideConfigured
  | .tornDown => some .teardownOutsideConfigured

/-- What a TEARDOWN does once it has passed its check and GUARD = 0 (R245): SCL is released first, then SDA, the pins return to input.
Always OK. R245 checks LIFE before the wait only: a TEARDOWN that waited while another caller's was carried out runs too. No TEARDOWN
has passed its check while LIFE = UNCONFIGURED (`State.CallersInv`), and that state is refused as R241 refuses it. -/
def State.teardown (s : State) : Host.Outcome (State × Status) Fault Refusal :=
  match s.life with
  | .configured => .next ({ ((s.releaseLine .scl).releaseLine .sda).unconfigurePins with life := .tornDown }, .ok)
  | .tornDown => .next ({ ((s.releaseLine .scl).releaseLine .sda).unconfigurePins with life := .tornDown }, .ok)
  | .unconfigured => .refused .teardownOutsideConfigured

end Sys2Proof.Machine
end

