-- ==== Sys2Proof/Machine/Buffer.lean ====
section
/-! DEFINITION. The transfer buffer, the only memory of the system (R51): bytes read and written by index. -/

namespace Sys2Proof

/-- What an index that is not listed reads as: 0x00. The list holds every other content a caller can leave in its buffer,
so no content is shut out (log entry 8). -/
abbrev Memory.unlisted : Byte := 0x00#8

/-- `MemRead(buf + i, 1)` within the buffer (R51). -/
def Memory.read : Memory → Nat → Byte
  | [], _ => Memory.unlisted
  | (a, b) :: m, i => if i = a then b else Memory.read m i

/-- `MemWrite(buf + i, 1, v)` within the buffer (R51); the canonical form is kept. -/
def Memory.write : Memory → Nat → Byte → Memory
  | [], i, v => if v = Memory.unlisted then [] else [(i, v)]
  | (a, b) :: m, i, v =>
    if i < a then (if v = Memory.unlisted then (a, b) :: m else (i, v) :: (a, b) :: m)
    else if i = a then (if v = Memory.unlisted then m else (i, v) :: m)
    else (a, b) :: Memory.write m i v

/-- A buffer holding the given bytes from index `i` on. -/
def Memory.ofBytesFrom : Nat → List Byte → Memory
  | _, [] => []
  | i, b :: bs =>
    if b = Memory.unlisted then Memory.ofBytesFrom (i + 1) bs else (i, b) :: Memory.ofBytesFrom (i + 1) bs

/-- A buffer holding the given bytes, byte 0 first (R52). -/
def Memory.ofBytes (bs : List Byte) : Memory :=
  Memory.ofBytesFrom 0 bs

end Sys2Proof
end

