-- ==== Sys2Proof/Machine/Transfer.lean ====
section
/-! DEFINITION. The reference host sequence TRANSFER (R160 to R180), as program points of its pseudocode (R164). -/

namespace Sys2Proof.Machine

/-- Where a response or a local step leaves a TRANSFER: still running, or returning a status and the buffer (R161). -/
inductive CallNext where
  | goes (c : Call)
  | returns (status : Status) (buf : Memory)
  deriving DecidableEq, Repr

/-- TRANSFER after validation (R164): LAST is BUS_ERROR, the first attempt begins. T0, ST and I are written before they are
read. -/
def Call.begin (d : Device) (r : Request) : Call :=
  { addr7 := d.addr7, dir := r.dir, len := r.len, buf := r.buf, attempt := 1, t0 := 0, last := .busError, st := .ok,
    idx := 0, point := .readT0 }

/-- Whether the point issues a command. -/
def Point.issues : Point → Bool
  | .readT0 => false
  | .issueStart => true
  | .issueAddr => true
  | .check => false
  | .issuePayload => true
  | .issueStop _ => true
  | .backoff => false

/-- The command issued at a point (R164, R166, R169): ACK is requested for every byte of a read but the last. -/
def Call.command (c : Call) : Instr :=
  match c.point with
  | .issueAddr => .send (addressByte c.addr7 c.dir)
  | .issuePayload =>
    match c.dir with
    | .read => .recv (decide (c.idx + 1 < c.len))
    | .write => .send (Memory.read c.buf c.idx)
  | .issueStop _ => .stop
  | .readT0 => .start
  | .issueStart => .start
  | .check => .start
  | .backoff => .start

/-- `NOW() - T0 > DEADLINE_US`, strict (R170). -/
def Call.pastDeadline (c : Call) (now : Nat) : Bool :=
  decide (now - c.t0 > Config.deadlineUs)

/-- After a reading of NOW(): T0 at the attempt's start, or the deadline check before a payload byte (R164, R170, R171). -/
def Call.onNow (c : Call) (now : Nat) : Call :=
  match c.point with
  | .readT0 => { c with t0 := now, point := .issueStart }
  | .check => if c.pastDeadline now then { c with point := .issueStop .deadline } else { c with point := .issuePayload }
  | .issueStart => c
  | .issueAddr => c
  | .issuePayload => c
  | .issueStop _ => c
  | .backoff => c

/-- The payload loop goes on to the next byte, or ends with the last one (R164, step 2c). -/
def Call.nextByte (c : Call) : Call :=
  if c.idx + 1 < c.len then { c with idx := c.idx + 1, point := .check } else { c with point := .issueStop .payloadDone }

/-- An attempt ended in a failure (R164, R172, R173): LAST is set; a backoff only if another attempt follows. -/
def Call.attemptFailed (c : Call) (failure : Status) : CallNext :=
  if c.attempt < Config.retryBudget then .goes { c with last := failure, point := .backoff }
  else .returns failure c.buf

/-- After a command's response (R164, R167 to R174). -/
def Call.onResponse (c : Call) (st : Status) (d : Byte) : CallNext :=
  match c.point with
  | .issueStart => .goes { c with point := .issueAddr }
  | .issueAddr =>
    if st = .busError then .goes { c with point := .issueStop .addrNack }
    else .goes { c with st := .ok, idx := 0, point := .check }
  | .issuePayload =>
    match c.dir with
    | .read => .goes { c with buf := Memory.write c.buf c.idx d }.nextByte
    | .write =>
      if st = .busError then .goes { c with st := .busError, point := .issueStop .payloadDone }
      else .goes c.nextByte
  | .issueStop .addrNack => c.attemptFailed .busError
  | .issueStop .payloadDone => if c.st = .ok then .returns .ok c.buf else c.attemptFailed c.st
  | .issueStop .deadline => .returns .timeout c.buf
  | .readT0 => .goes c
  | .check => .goes c
  | .backoff => .goes c

/-- After `WAIT_US(BACKOFF_US)` the next attempt begins (R164, R172). -/
def Call.afterBackoff (c : Call) : Call :=
  { c with attempt := c.attempt + 1, point := .readT0 }

/-- Whether the point's buffer access, if it has one, is at an index of 0 .. len-1 (R51, R165). -/
def Call.indexOk (c : Call) : Bool :=
  match c.point with
  | .issuePayload => decide (c.idx < c.len)
  | _ => true

/-- The buffer read of the point's command (R165): a write's payload byte. -/
def Call.readEvents (c : Call) : List HostEvent :=
  match c.point, c.dir with
  | .issuePayload, .write => [.memRead c.idx (Memory.read c.buf c.idx)]
  | _, _ => []

/-- The buffer write of the point's response (R165): a read's received byte. -/
def Call.writeEvents (c : Call) (d : Byte) : List HostEvent :=
  match c.point, c.dir with
  | .issuePayload, .read => [.memWrite c.idx d]
  | _, _ => []

/-- The most commands the current attempt can still issue, the one awaiting its response included (R176, R180). -/
def Call.attemptCommandsLeft (c : Call) : Nat :=
  match c.point with
  | .readT0 => 3 + c.len
  | .issueStart => 3 + c.len
  | .issueAddr => 2 + c.len
  | .check => c.len - c.idx + 1
  | .issuePayload => c.len - c.idx + 1
  | .issueStop _ => 1
  | .backoff => 0

/-- The most commands the call can still issue (R180): those of this attempt and of the attempts left. -/
def Call.commandsLeft (c : Call) : Nat :=
  c.attemptCommandsLeft + (Config.retryBudget - c.attempt) * (3 + c.len)

/-- What TRANSFER's validation decides. -/
inductive Validation where
  | valid (d : Device) (r : Request)
  | invalid
  | refused (r : Refusal)
  deriving DecidableEq, Repr

/-- Validation (R162), then direction agreement (R163), then the length's bound (R9, R161). -/
def validate (p : Params) (bus : Bool) (dev : Option Device) (req : Option Request) : Validation :=
  match bus, dev, req with
  | true, some d, some r =>
    if r.len = 0 then .invalid
    else if d.dir ≠ r.dir then .refused .directionMismatch
    else if p.maxLen < r.len then .refused .lengthAboveMaxLen
    else .valid d r
  | _, _, _ => .invalid

/-- The buffer a call returns when validation fails: the caller's, untouched (R162, R175). -/
def bufferOf (req : Option Request) : Memory :=
  match req with
  | some r => r.buf
  | none => []

end Sys2Proof.Machine
end

