-- ==== Sys2Proof/Machine/Callers.lean ====
section
/-! DEFINITION. The host callers of one bus: what one caller's step does, and which caller moves (R18, R76, R229). -/

namespace Sys2Proof.Machine

/-- Add events to a caller's history (R57). -/
def Caller.note (c : Caller) (es : List HostEvent) : Caller :=
  { c with history := c.history ++ es }

/-- What the caller does next: the rest of its operations, or its operations from the start again (R231; log entry 24). -/
def Caller.pending (c : Caller) : List HostOp :=
  match c.todo with
  | [] => c.again
  | o :: os => o :: os

/-- Its next operation is done. -/
def Caller.finish (c : Caller) : Caller :=
  { c with todo := c.pending.tail }

/-- Replace caller `k`. -/
def State.setCaller (s : State) (k : Nat) (c : Caller) : State :=
  { s with callers := s.callers.set k c }

/-- Byte `i` of the buffer of caller `k`'s TRANSFER, if it is in one and the index exists (R51). -/
def State.bufferByte (s : State) (k i : Nat) : Option Byte :=
  match s.callers[k]? with
  | some c =>
    match c.call with
    | some t => if i < t.len then some (Memory.read t.buf i) else none
    | none => none
  | none => none

/-- Whether the caller's next action is to issue a command. -/
def Caller.wantsBus (c : Caller) : Bool :=
  match c.call with
  | some t => t.point.issues
  | none =>
    match c.pending with
    | .issue _ :: _ => true
    | _ => false

/-- Whether caller `k` can take a step now. A caller that wants to issue waits for `cmd_ready`, for the port and for the response of the
last command to be collected, whoever's it is (R76, R209; DEDUCED: log entry 7); INIT waits for GUARD = 0 (R59), and so does a TEARDOWN that has passed its check (R245); a caller whose
command is presented or running waits for the response (R76). -/
def State.canMove (s : State) (k : Nat) (c : Caller) : Bool :=
  if s.owner = some k then false
  else if c.wantsBus then s.cmdReady && s.port.isNone && s.owner.isNone
  else
    match c.call, c.pending with
    | some _, _ => true
    | none, [] => false
    | none, .issue _ :: _ => false
    | none, .init _ :: _ => !s.guard
    | none, .teardown :: _ => !c.tearingDown || !s.guard
    | none, .transfer _ _ _ :: _ => true

/-- The callers that can move. -/
def State.movers (s : State) : List Nat :=
  (List.range s.callers.length).filter fun k =>
    match s.callers[k]? with
    | some c => s.canMove k c
    | none => false

/-- Caller `k`, which `cmd_ready` was granted to, presents a word on the command port (R76). -/
def State.present (s : State) (k : Nat) (c : Caller) (w : Cmd) : State :=
  { (s.setCaller k (c.note [.issued w])) with port := some w, owner := some k }

/-- The value of the coming NOW() of a caller: never below its last one (R220). -/
def State.nextNow (s : State) (c : Caller) : Nat :=
  c.clock + s.inputs.nextElapsed

/-- The draw of a NOW() is taken (R220). -/
def State.drawElapsed (s : State) : State :=
  { s with inputs := s.inputs.dropElapsed }

/-- A step of caller `k` inside TRANSFER `t` (R164). -/
def State.transferStep (s : State) (k : Nat) (c : Caller) (t : Call) : StepOutcome :=
  match t.point with
  | .readT0 | .check =>
    let now := s.nextNow c
    .next (s.drawElapsed.setCaller k { (c.note [.now now]) with clock := now, call := some (t.onNow now) })
  | .backoff =>
    .next (s.setCaller k { (c.note [.waitUs Config.backoffUs]) with call := some t.afterBackoff })
  | .issueStart | .issueAddr | .issuePayload | .issueStop _ =>
    if t.indexOk then .next (s.present k (c.note t.readEvents) (encode t.command)) else .fault .bufferIndex

/-- A call of TRANSFER begins or is turned away (R162, R163). -/
def State.beginTransfer (s : State) (k : Nat) (c : Caller) (bus : Bool) (dev : Option Device) (req : Option Request) :
    StepOutcome :=
  match validate s.params bus dev req with
  | .valid d r => .next (s.setCaller k { c.finish with call := some (Call.begin d r) })
  | .invalid =>
    .next (s.setCaller k (c.finish.note [.transferReturned .invalidArgument (bufferOf req)]))
  | .refused r => .refused r

/-- A lifecycle operation returns its status to caller `k` (R241). -/
def State.lifecycleReturns (k : Nat) (c : Caller) (ev : Status → HostEvent) :
    Host.Outcome (State × Status) Fault Refusal → StepOutcome
  | .next (t, st) => .next (t.setCaller k (c.finish.note [ev st]))
  | .fault f => .fault f
  | .refused r => .refused r

/-- A TEARDOWN of caller `k` begins: it passes its check of LIFE and waits for GUARD = 0, or is refused (R241, R245). -/
def State.beginTeardown (s : State) (k : Nat) (c : Caller) : StepOutcome :=
  match s.teardownRefused with
  | none => .next (s.setCaller k { c with tearingDown := true })
  | some r => .refused r

/-- One step of caller `k`. -/
def State.callerStep (s : State) (k : Nat) : StepOutcome :=
  match s.callers[k]? with
  | none => .next s
  | some c =>
    match c.call with
    | some t => s.transferStep k c t
    | none =>
      match c.pending with
      | [] => .next s
      | .issue w :: _ => .next (s.present k c w)
      | .init answer :: _ => State.lifecycleReturns k c .initReturned (s.init answer)
      | .teardown :: _ =>
        if c.tearingDown then State.lifecycleReturns k { c with tearingDown := false } .teardownReturned s.teardown
        else s.beginTeardown k c
      | .transfer bus dev req :: _ => s.beginTransfer k c bus dev req

/-- A caller gets its command's response (R76, R209): the raw command is done, or TRANSFER goes on. -/
def Caller.onResponse (c : Caller) (st : Status) (d : Byte) : Host.Outcome Caller Fault Refusal :=
  match c.call with
  | none => .next (c.finish.note [.response st d])
  | some t =>
    if t.indexOk then
      match t.onResponse st d with
      | .goes t' => .next { (c.note (.response st d :: t.writeEvents d)) with call := some t' }
      | .returns r buf => .next { (c.note [.response st d, .transferReturned r buf]) with call := none }
    else .fault .bufferIndex

/-- Caller `k` collects its command's response, before any other command can be accepted (R209; log entry 7). -/
def State.collect (s : State) (k : Nat) : StepOutcome :=
  match s.callers[k]? with
  | none => .next { s with owner := none }
  | some c =>
    match c.onResponse s.rspStatus s.rspData with
    | .next c' => .next { (s.setCaller k c') with owner := none }
    | .fault f => .fault f
    | .refused r => .refused r

/-- Whether a command is waiting: presented on the port, or held by a caller that waits for `cmd_ready` (R76). -/
def State.commandWaits (s : State) : Bool :=
  s.port.isSome || s.callers.any Caller.wantsBus

/-- Nobody can move. A command that waits outside CONFIGURED is stuck (U16, D22); otherwise nothing happens until a host
acts (R38: the engine executes nothing until a command is accepted). -/
def State.nobodyMoves (s : State) : StepOutcome :=
  if s.commandWaits then
    match s.life with
    | .unconfigured => .fault .stuckUnconfigured
    | .tornDown => .fault .stuckTornDown
    | .configured => .next s
  else .next s

/-- A choice among callers is taken (R229). -/
def State.drawGrant (s : State) : State :=
  { s with inputs := s.inputs.dropGrant }

/-- One of the callers that can move does; with more than one, any of them may (R229). -/
def State.grantStep (s : State) : StepOutcome :=
  match s.movers with
  | [] => s.nobodyMoves
  | [k] => s.callerStep k
  | k :: ks => s.drawGrant.callerStep ((k :: ks).getD (s.inputs.nextGrant % (k :: ks).length) k)

/-- A step of the host side, while the engine has nothing to do. -/
def hostStep (s : State) : StepOutcome :=
  match s.owner with
  | some k => if s.rspValid && s.port.isNone && !s.guard then s.collect k else s.grantStep
  | none => s.grantStep

end Sys2Proof.Machine
end

