-- ==== Sys2Proof/Machine/Bytes.lean ====
section
/-! DEFINITION. SEND and RECV: their micro-operation tables and meanings (R130, R134). -/

namespace Sys2Proof.Machine

/-- The bits of a byte in wire order, most significant first (R53). -/
def wireOrder : List (Fin 8) := [7, 6, 5, 4, 3, 2, 1, 0]

/-- The six micro-operations of SEND's bit k, at MPC 6(7-k) to 6(7-k)+5 (R130). -/
def sendBitRows (k : Fin 8) : List MicroRow :=
  [ ⟨.setShiftBit k, .bitTransfer⟩, ⟨.delay, .bitTransfer⟩,
    ⟨.set .scl true, .bitTransfer⟩, ⟨.delay, .bitTransfer⟩,
    ⟨.set .scl false, .bitTransfer⟩, ⟨.delay, .bitTransfer⟩ ]

/-- SEND's acknowledge bit, MPC 48 to 54 (R130). -/
def sendAckRows : List MicroRow :=
  [ ⟨.set .sda true, .ackPhase⟩, ⟨.delay, .ackPhase⟩,
    ⟨.set .scl true, .ackPhase⟩, ⟨.delay, .ackPhase⟩,
    ⟨.sampleAck, .ackPhase⟩,
    ⟨.set .scl false, .ackPhase⟩, ⟨.delay, .ackPhase⟩ ]

/-- SEND's table, length 55 (R130). -/
def sendTable : List MicroRow :=
  wireOrder.flatMap sendBitRows ++ sendAckRows

/-- The five micro-operations of RECV's bit k, at MPC 1+5(7-k) to 5+5(7-k) (R134). -/
def recvBitRows (k : Fin 8) : List MicroRow :=
  [ ⟨.set .scl true, .bitTransfer⟩, ⟨.delay, .bitTransfer⟩,
    ⟨.sampleBit k, .bitTransfer⟩,
    ⟨.set .scl false, .bitTransfer⟩, ⟨.delay, .bitTransfer⟩ ]

/-- RECV's acknowledge bit and its last release of SDA, MPC 41 to 47 (R134). -/
def recvAckRows : List MicroRow :=
  [ ⟨.setAckReq, .ackPhase⟩, ⟨.delay, .ackPhase⟩,
    ⟨.set .scl true, .ackPhase⟩, ⟨.delay, .ackPhase⟩,
    ⟨.set .scl false, .ackPhase⟩, ⟨.delay, .ackPhase⟩,
    ⟨.set .sda true, .ackPhase⟩ ]

/-- RECV's table, length 48 (R134). -/
def recvTable : List MicroRow :=
  ⟨.set .sda true, .bitTransfer⟩ :: (wireOrder.flatMap recvBitRows ++ recvAckRows)

/-- SEND (R130): SHIFT is loaded at acceptance, OK or BUS_ERROR by ACKBIT, data 0x00. -/
def execSend (value : Byte) (s : State) : StepOutcome :=
  commandStep (.send value) sendTable (fun t => t.loadShift value) statusOfAckBit dataZero s

/-- RECV (R134): ACKREQ is loaded at acceptance, status OK, data SHIFT. -/
def execRecv (ack : Bool) (s : State) : StepOutcome :=
  commandStep (.recv ack) recvTable (fun t => t.loadAckReq ack) statusOk dataShift s

end Sys2Proof.Machine
end

