-- ==== Sys2Proof/Machine/Conditions.lean ====
section
/-! DEFINITION. START and STOP: their micro-operation tables and meanings (R124, R127). -/

namespace Sys2Proof.Machine

/-- START's table, length 8 (R124). -/
def startTable : List MicroRow :=
  [ ⟨.set .sda true, .startAsserted⟩, ⟨.delay, .startAsserted⟩,
    ⟨.set .scl true, .startAsserted⟩, ⟨.delay, .startAsserted⟩,
    ⟨.set .sda false, .startAsserted⟩, ⟨.delay, .startAsserted⟩,
    ⟨.set .scl false, .startAsserted⟩, ⟨.delay, .startAsserted⟩ ]

/-- STOP's table, length 6 (R127). -/
def stopTable : List MicroRow :=
  [ ⟨.set .sda false, .stopAsserted⟩, ⟨.delay, .stopAsserted⟩,
    ⟨.set .scl true, .stopAsserted⟩, ⟨.delay, .stopAsserted⟩,
    ⟨.set .sda true, .stopAsserted⟩, ⟨.delay, .stopAsserted⟩ ]

/-- START (R124): status OK, data 0x00, no data register read or written. -/
def execStart (s : State) : StepOutcome :=
  commandStep .start startTable State.loadNothing statusOk dataZero s

/-- STOP (R127): status OK, data 0x00, no data register read or written. -/
def execStop (s : State) : StepOutcome :=
  commandStep .stop stopTable State.loadNothing statusOk dataZero s

end Sys2Proof.Machine
end

