-- ==== Sys2Proof/Machine/Fetch.lean ====
section
/-! DEFINITION. What the next step works on (R76, R121), and the state in which a given word is the next command. -/

namespace Sys2Proof.Machine

/-- What the next step works on. -/
inductive Pick where
  /-- The engine works on a command: the one in flight, or the one presented. -/
  | run (i : Instr)
  /-- The engine takes an illegal word. -/
  | illegal (w : Cmd)
  /-- The engine has nothing to do; the host side moves. -/
  | host
  deriving DecidableEq, Repr

/-- While GUARD = 1 the command in flight goes on (R59, R121). With LIFE = CONFIGURED and GUARD = 0 a presented word is accepted
(R76). Otherwise the host side moves. -/
def State.pick (s : State) : Pick :=
  match s.guard with
  | true => .run s.inFlight
  | false =>
    match s.life with
    | .configured =>
      match s.port with
      | some w =>
        match decode w with
        | .ok i => .run i
        | .error _ => .illegal w
      | none => .host
    | .unconfigured => .host
    | .tornDown => .host

/-- LIFE = CONFIGURED as INIT leaves it (R242), with a CFG legal at every width; an already configured bus is kept. -/
def State.madeConfigured (s : State) : State :=
  match s.life with
  | .configured => s
  | .unconfigured =>
    { s with life := .configured, cfg := { sclPin := 0, sdaPin := 1, clockRate := 1 }, sclMode := .openDrain, sdaMode := .openDrain }
  | .tornDown =>
    { s with life := .configured, cfg := { sclPin := 0, sdaPin := 1, clockRate := 1 }, sclMode := .openDrain, sdaMode := .openDrain }

/-- The engine ready (R76: LIFE = CONFIGURED, GUARD = 0) and the word presented on its port (log entry 9). -/
def State.presenting (s : State) (w : Cmd) : State :=
  { s.madeConfigured with guard := false, fsm := .idle, port := some w, owner := none }

end Sys2Proof.Machine
end

