-- ==== Sys2Proof/Machine/Step.lean ====
section
/-! DEFINITION. One step of the machine: an engine step (R138), or, while the engine has nothing to do, a host step. -/

namespace Sys2Proof.Machine

/-- One step (R121, R138; log entry 1). -/
def step (s : State) : Host.Outcome State Fault Refusal :=
  match s.pick with
  | .run i => exec i s
  | .illegal w => .next (s.acceptIllegal w)
  | .host => hostStep s

/-- `s` with the command word of the given bits presented to a ready engine (log entry 9). -/
def State.withFetchWord (s : State) (nbits w : Nat) : State :=
  s.presenting (wordOfBits nbits w)

end Sys2Proof.Machine
end

