-- ==== Sys2Proof/Machine/Ports.lean ====
section
/-! DEFINITION. The numbers of the coded registers (R22, R27, R28, R200) and the engine's ports (R70). -/

namespace Sys2Proof.Machine

/-- LIFE as 2 bits (R22). -/
def codeOfLife : Life → BitVec 2
  | .unconfigured => 0#2
  | .configured => 1#2
  | .tornDown => 2#2

/-- FSM_STATE as 3 bits (R27). -/
def codeOfFsm : FsmState → BitVec 3
  | .idle => 0#3
  | .startAsserted => 1#3
  | .bitTransfer => 2#3
  | .ackPhase => 3#3
  | .stopAsserted => 4#3

/-- OP as 2 bits (R28). -/
def codeOfOp : Op → BitVec 2
  | .start => 0#2
  | .stop => 1#2
  | .send => 2#2
  | .recv => 3#2

/-- A status as 3 bits (R200). -/
def codeOfStatus : Status → BitVec 3
  | .ok => 0#3
  | .invalidArgument => 1#3
  | .busError => 2#3
  | .timeout => 3#3
  | .outOfResources => 4#3
  | .configurationError => 5#3
  | .illegalCommand => 6#3

/-- The categories of the failure statuses (R177, R200). -/
inductive Category where
  | none
  | retryable
  | fatal
  deriving DecidableEq, Repr

/-- The category of a status (R177, R200). -/
def categoryOf : Status → Category
  | .ok => .none
  | .busError => .retryable
  | .invalidArgument => .fatal
  | .timeout => .fatal
  | .outOfResources => .fatal
  | .configurationError => .fatal
  | .illegalCommand => .fatal

/-- The levels of the engine's ports (R70). `cmd` is shown while `cmd_valid` is 1. -/
structure Ports where
  cmdValid  : Bool
  cmd       : Option Cmd
  cmdReady  : Bool
  rspValid  : Bool
  rspStatus : BitVec 3
  rspData   : BitVec 8
  fsmState  : BitVec 3
  sclO      : Bool
  sdaO      : Bool
  sdaI      : Bool
  sclI      : Bool
  deriving DecidableEq, Repr

/-- The ports of a state (R70). -/
def State.ports (s : State) : Ports :=
  { cmdValid := s.port.isSome
    cmd := s.port
    cmdReady := s.cmdReady
    rspValid := s.rspValid
    rspStatus := codeOfStatus s.rspStatus
    rspData := s.rspData
    fsmState := codeOfFsm s.fsm
    sclO := s.sclOut
    sdaO := s.sdaOut
    sdaI := s.sdaLine
    sclI := s.sclLine }

end Sys2Proof.Machine
end

