-- ==== Sys2Proof/Machine/Tables.lean ====
section
/-! DEFINITION. The four commands' tables by opcode, their lengths, and the run of a whole table (R29, R121, R138). -/

namespace Sys2Proof.Machine

/-- The table of an opcode (R124, R127, R130, R134). -/
def tableOf : Op → List MicroRow
  | .start => startTable
  | .stop => stopTable
  | .send => sendTable
  | .recv => recvTable

/-- The length of an opcode's sequence (R29): 8, 6, 55 and 48. -/
def lengthOf (o : Op) : Nat :=
  (tableOf o).length

/-- What a command's acceptance copies into a register (R73, R121). -/
def loadOf (i : Instr) (s : State) : State :=
  match i with
  | .start => s.loadNothing
  | .stop => s.loadNothing
  | .send value => s.loadShift value
  | .recv ack => s.loadAckReq ack

/-- The status an opcode reports at completion (R77). -/
def statusOf (o : Op) (s : State) : Status :=
  match o with
  | .start => statusOk s
  | .stop => statusOk s
  | .send => statusOfAckBit s
  | .recv => statusOk s

/-- The data byte an opcode reports at completion (R77). -/
def dataOf (o : Op) (s : State) : Byte :=
  match o with
  | .start => dataZero s
  | .stop => dataZero s
  | .send => dataZero s
  | .recv => dataShift s

/-- Engine steps from acceptance to completion, the acceptance included (R138, R139). -/
def engineSteps (i : Instr) : Nat :=
  lengthOf (opOf i) + 1

/-- The TRACE entries of a table's rows, in order (R36, R61, R101, R102, R104): SHIFT and ACKREQ are the registers' contents, and
each SAMPLE takes the next of the given results. -/
def traceOf (shift : Byte) (ackReq : Bool) : List MicroRow → List Bool → List Event
  | [], _ => []
  | r :: rs, vs =>
    match r.op with
    | .set l b => .set l b :: traceOf shift ackReq rs vs
    | .setShiftBit k => .set .sda (shift.getLsbD k.val) :: traceOf shift ackReq rs vs
    | .setAckReq => .set .sda (!ackReq) :: traceOf shift ackReq rs vs
    | .delay => .delay :: traceOf shift ackReq rs vs
    | .sampleAck => .sample (vs.headD false) :: traceOf shift ackReq rs vs.tail
    | .sampleBit _ => .sample (vs.headD false) :: traceOf shift ackReq rs vs.tail

/-- The level the rows performed so far last set a line to, if one of them set it (R25, R101). -/
def lastSet (shift : Byte) (ackReq : Bool) (l : Line) (rows : List MicroRow) : Option Bool :=
  rows.foldl
    (fun acc r =>
      match r.op with
      | .set l' v => if l' = l then some v else acc
      | .setShiftBit k => if l = .sda then some (shift.getLsbD k.val) else acc
      | .setAckReq => if l = .sda then some (!ackReq) else acc
      | .delay => acc
      | .sampleAck => acc
      | .sampleBit _ => acc)
    none

/-- The TRACE entry of the micro-operation `m` performed in `s` (R36, R101, R102, R104). -/
def State.eventOf (s : State) (m : MicroOp) : Event :=
  match m with
  | .set l v => .set l v
  | .setShiftBit k => .set .sda (s.shift.getLsbD k.val)
  | .setAckReq => .set .sda (!s.ackReq)
  | .delay => .delay
  | .sampleAck => .sample s.sampleLevel
  | .sampleBit _ => .sample s.sampleLevel

/-- The drive the environment chooses at the n-th SAMPLE from now, counted from 0 (R35, R102). -/
def Inputs.driveAt : Nat → Inputs → Drive
  | 0, x => x.nextDrive
  | n + 1, x => Inputs.driveAt n x.dropDrive

/-- The draws left once a command is accepted: an acceptance draws the response registers' free values (R33). -/
def Inputs.afterAcceptance (x : Inputs) : Inputs :=
  { x with draws := x.draws + 1 }

/-- The eight samples of a RECV, first one first, as the byte it returns (R135). -/
def byteOfSamples (v0 v1 v2 v3 v4 v5 v6 v7 : Bool) : Byte :=
  BitVec.ofBoolListBE [v0, v1, v2, v3, v4, v5, v6, v7]

end Sys2Proof.Machine
end

