-- ==== Sys2Proof/WellFormed.lean ====
section
/-! DEFINITION. Which terms are well formed: instructions, parameters, the configuration record, buffers, requests. -/

namespace Sys2Proof

/-- Every instruction term is well formed: SEND's operand is a byte and RECV's a bit by their types (R71, R73). -/
def Instr.wf : Instr → Bool
  | .start => true
  | .stop => true
  | .send _ => true
  | .recv _ => true

/-- The open parameters are at least 1 (R9). -/
def Params.wf (p : Params) : Bool :=
  decide (1 ≤ p.pinW) && decide (1 ≤ p.rateW) && decide (1 ≤ p.maxLen) && decide (1 ≤ p.numCallers) && decide (1 ≤ p.numBuses)

/-- The canonical form of a memory: addresses strictly rising, no byte equal to what an unlisted address reads as. -/
def Memory.wf (m : Memory) : Bool :=
  decide (m.Pairwise (fun a b => a.1 < b.1)) && m.all (fun c => c.2 != 0#8)

/-- A request: a canonical buffer whose listed indices lie in 0 .. len-1 (R51), and a length of at most MAX_LEN (R161). -/
def Request.wf (p : Params) (r : Request) : Bool :=
  Memory.wf r.buf && r.buf.all (fun c => decide (c.1 < r.len)) && decide (r.len ≤ p.maxLen)

/-- A host operation: TRANSFER's request is well formed. INIT rejects the answers its fields cannot hold itself (R23). -/
def HostOp.wf (p : Params) : HostOp → Bool
  | .issue _ => true
  | .init _ => true
  | .teardown => true
  | .transfer _ _ none => true
  | .transfer _ _ (some r) => Request.wf p r

/-- A legal CFG record (R23): two different pin ids and a nonzero clock rate, each within its width. -/
def Machine.Cfg.legal (p : Params) (c : Machine.Cfg) : Bool :=
  decide (c.sclPin < 2 ^ p.pinW) && decide (c.sdaPin < 2 ^ p.pinW) && decide (c.sclPin ≠ c.sdaPin)
    && decide (0 < c.clockRate) && decide (c.clockRate < 2 ^ p.rateW)

/-- A TRANSFER in progress: ATTEMPT in 1 to RETRY_BUDGET and I in 0 to len - 1 (R160), ST OK or BUS_ERROR (R164), a
length of 1 to MAX_LEN (R161), a canonical buffer within its length (R51), and a backoff only where another attempt follows
(R172). -/
def Machine.Call.wf (p : Params) (c : Machine.Call) : Bool :=
  decide (1 ≤ c.attempt) && decide (c.attempt ≤ Config.retryBudget)
    && decide (c.st = .ok ∨ c.st = .busError) && decide (c.idx < c.len)
    && (decide (c.point ≠ .backoff) || decide (c.attempt < Config.retryBudget))
    && decide (c.len ≤ p.maxLen) && Memory.wf c.buf && c.buf.all (fun x => decide (x.1 < c.len))

end Sys2Proof
end

