-- ==== Sys2Proof/Laws/PerInstr.lean ====
section
/-! SUPPORT. Statements made per instruction, one lemma per constructor. -/

/-- The word of an instruction carries its opcode in `cmd[1:0]` and zeros in the reserved field (R71, R72), and the instruction
is well formed. -/
def Sys2Proof.Laws.OpField.Statement (i : Sys2Proof.Instr) : Prop :=
  (Sys2Proof.encode i).extractLsb' 0 2 = Sys2Proof.Machine.codeOfOp (Sys2Proof.Machine.opOf i)
    ∧ (Sys2Proof.encode i).extractLsb' 3 5 = 0#5 ∧ i.wf = true

theorem Sys2Proof.Laws.OpField.start : Sys2Proof.Laws.OpField.Statement .start := by
  unfold Sys2Proof.Laws.OpField.Statement; decide

theorem Sys2Proof.Laws.OpField.stop : Sys2Proof.Laws.OpField.Statement .stop := by
  unfold Sys2Proof.Laws.OpField.Statement; decide

theorem Sys2Proof.Laws.OpField.send (value : Sys2Proof.Byte) : Sys2Proof.Laws.OpField.Statement (.send value) := by
  unfold Sys2Proof.Laws.OpField.Statement
  refine ⟨?_, ?_, rfl⟩ <;>
    · ext j hj
      simp only [Sys2Proof.encode, BitVec.getElem_extractLsb', BitVec.getLsbD_or, BitVec.getLsbD_shiftLeft]
      interval_cases j <;> simp [Sys2Proof.Machine.codeOfOp, Sys2Proof.Machine.opOf]

theorem Sys2Proof.Laws.OpField.recv (ack : Bool) : Sys2Proof.Laws.OpField.Statement (.recv ack) := by
  unfold Sys2Proof.Laws.OpField.Statement
  cases ack <;> decide
end

