-- ==== Sys2Proof/Machine/Agents.lean ====
section
/-! DEFINITION. The steps of one bus by agent (R18, R138): the engine's, and one caller's. `step` takes them engine first; here the
agent that moves is the run's free choice (log entry 17). -/

namespace Sys2Proof.Machine

/-- An agent of one bus that takes steps (R18). The environment and the time source answer draws; they take no step. -/
inductive Agent where
  | engine
  | caller (k : Nat)
  deriving DecidableEq, Repr

/-- A step of the engine: its command's next micro-operation, or the acceptance of a presented word; nothing if it has neither. -/
def State.engineStep (s : State) : StepOutcome :=
  match s.pick with
  | .run i => exec i s
  | .illegal w => .next (s.acceptIllegal w)
  | .host => .next s

/-- A step of caller `k`, at any time (R138): its response once it is there (R76), or its next action if it can take it; nothing while
it waits. No caller presents a word over another's response: `State.canMove` (DEDUCED: log entry 7). -/
def State.stepOfCaller (s : State) (k : Nat) : StepOutcome :=
  match s.callers[k]? with
  | none => .next s
  | some c =>
    if s.owner = some k then
      if s.rspValid && s.port.isNone && !s.guard then s.collect k else .next s
    else if s.canMove k c then s.callerStep k
    else .next s

/-- A step of one agent. -/
def State.agentStep (s : State) (a : Agent) : StepOutcome :=
  match a with
  | .engine => s.engineStep
  | .caller k => s.stepOfCaller k

end Sys2Proof.Machine
end

