-- ==== Sys2Proof/Machine/Assembler.lean ====
section
/-! DEFINITION. The assembler text of R82 and the pseudo-instructions of R83, over lists of characters. -/

namespace Sys2Proof.Machine

/-- The commands a line stands for (R83). READ of no byte has no expansion: its last RECV is for byte n - 1. -/
def expand : AsmLine → Option (List Instr)
  | .cmd i => some [i]
  | .addrw a7 => some [.send (addressByte a7 .write)]
  | .addrr a7 => some [.send (addressByte a7 .read)]
  | .recvlast => some [.recv false]
  | .write a7 bytes => some (.start :: .send (addressByte a7 .write) :: (bytes.map Instr.send ++ [.stop]))
  | .read _ 0 => none
  | .read a7 (n + 1) =>
    some (.start :: .send (addressByte a7 .read) :: (List.replicate n (.recv true) ++ [.recv false, .stop]))

/-- The words a line assembles to (R82, R83). -/
def wordsOf (l : AsmLine) : Option (List Cmd) :=
  (expand l).map (List.map encode)

/-- A letter in lower case: mnemonics and keywords are case-insensitive (R82). -/
def lowerChar (c : Char) : Char :=
  if 65 ≤ c.toNat ∧ c.toNat ≤ 90 then Char.ofNat (c.toNat + 32) else c

/-- The value of a digit in a base, or none. -/
def digitValue (base : Nat) (c : Char) : Option Nat :=
  let n := c.toNat
  let v := if 48 ≤ n ∧ n ≤ 57 then n - 48 else if 97 ≤ n ∧ n ≤ 102 then n - 87 else 16
  if v < base then some v else none

/-- The value of a string of digits, after the value read so far. -/
def digitsValue (base acc : Nat) : List Char → Option Nat
  | [] => some acc
  | c :: cs =>
    match digitValue base c with
    | some v => digitsValue base (acc * base + v) cs
    | none => none

/-- A numeric literal: decimal, `0x` hexadecimal or `0b` binary (R82), with at least one digit. Tokens are in lower case, so hexadecimal
digits of both cases are accepted, and so are leading zeros, any number of them. DESIGN CHOICE: log entry 21 (safe). -/
def literalValue : List Char → Option Nat
  | [] => none
  | '0' :: 'x' :: c :: cs => digitsValue 16 0 (c :: cs)
  | '0' :: 'b' :: c :: cs => digitsValue 2 0 (c :: cs)
  | c :: cs => digitsValue 10 0 (c :: cs)

/-- A literal of 0 to 255 (R82). -/
def byteLiteral (t : List Char) : Option Byte :=
  match literalValue t with
  | some n => if n < 256 then some (BitVec.ofNat 8 n) else none
  | none => none

/-- A device address of 0 to 127 (R83). -/
def addressLiteral (t : List Char) : Option (BitVec 7) :=
  match literalValue t with
  | some n => if n < 128 then some (BitVec.ofNat 7 n) else none
  | none => none

/-- The text before `;`, which begins a comment (R82). -/
def beforeComment (l : List Char) : List Char :=
  l.takeWhile (fun c => c ≠ ';')

/-- Whether a character separates tokens. -/
def isBlank (c : Char) : Bool :=
  decide (c = ' ') || decide (c = '\t')

/-- The tokens of a text in lower case: a comma is a token of its own. `cur` is the token being read, last letter first. -/
def tokensFrom (cur : List Char) : List Char → List (List Char)
  | [] => if cur = [] then [] else [cur.reverse]
  | c :: cs =>
    if isBlank c then
      if cur = [] then tokensFrom [] cs else cur.reverse :: tokensFrom [] cs
    else if c = ',' then
      if cur = [] then [','] :: tokensFrom [] cs else cur.reverse :: [','] :: tokensFrom [] cs
    else tokensFrom (lowerChar c :: cur) cs

/-- The bytes after WRITE's address, each after a comma (R83). -/
def commaBytes : List (List Char) → Option (List Byte)
  | [] => some []
  | [','] :: t :: ts =>
    match byteLiteral t, commaBytes ts with
    | some b, some bs => some (b :: bs)
    | _, _ => none
  | _ => none

/-- A line's tokens as a command or a pseudo-instruction (R82, R83). READ's n is a literal of any of R82's forms and of any size: MAX_LEN
bounds TRANSFER, not this expansion. DESIGN CHOICE: log entry 21 (safe). -/
def parseTokens : List (List Char) → Option AsmLine
  | [['s', 't', 'a', 'r', 't']] => some (.cmd .start)
  | [['s', 't', 'o', 'p']] => some (.cmd .stop)
  | [['s', 'e', 'n', 'd'], t] => (byteLiteral t).map (fun b => .cmd (.send b))
  | [['r', 'e', 'c', 'v'], ['a', 'c', 'k']] => some (.cmd (.recv true))
  | [['r', 'e', 'c', 'v'], ['n', 'a', 'c', 'k']] => some (.cmd (.recv false))
  | [['a', 'd', 'd', 'r', 'w'], t] => (addressLiteral t).map AsmLine.addrw
  | [['a', 'd', 'd', 'r', 'r'], t] => (addressLiteral t).map AsmLine.addrr
  | [['r', 'e', 'c', 'v', 'l', 'a', 's', 't']] => some .recvlast
  | ['w', 'r', 'i', 't', 'e'] :: t :: ts =>
    match addressLiteral t, commaBytes ts with
    | some a, some bs => some (.write a bs)
    | _, _ => none
  | [['r', 'e', 'a', 'd'], t, [','], u] =>
    match addressLiteral t, literalValue u with
    | some a, some n => some (.read a n)
    | _, _ => none
  | _ => none

/-- The words of one line of text; a blank or comment line assembles to none (R82, R83). -/
def assembleLine (l : List Char) : Option (List Cmd) :=
  match tokensFrom [] (beforeComment l) with
  | [] => some []
  | ts =>
    match parseTokens ts with
    | some a => wordsOf a
    | none => none

/-- The words of a straight-line program, one line after another (R82). -/
def assemble : List (List Char) → Option (List Cmd)
  | [] => some []
  | l :: ls =>
    match assembleLine l, assemble ls with
    | some ws, some rest => some (ws ++ rest)
    | _, _ => none

/-- A host caller that issues a program's words in order, reading each response before the next (R76, R248). -/
def callerOfWords (ws : List Cmd) : Caller :=
  { todo := ws.map HostOp.issue, again := [], tearingDown := false, call := none, clock := 0, history := [] }

end Sys2Proof.Machine
end

