-- ==== Sys2Proof/Machine/Buses.lean ====
section
/-! DEFINITION. Several buses: the product of single-bus machines whose steps interleave freely (R19, R62, R228). -/

namespace Sys2Proof.Machine

/-- NUM_BUSES bus instances (R9, R19). -/
structure System where
  buses : List State
  deriving DecidableEq, Repr

/-- NUM_BUSES instances, at least 1, each with that number as its parameter (R9), and no two with the same stream of draws: what one
bus's environment, time source and allocator answer says nothing of another's (R19, R109, R228; log entry 19). -/
def System.wf (y : System) : Bool :=
  decide (1 ≤ y.buses.length) && y.buses.all (fun s => decide (s.params.numBuses = y.buses.length))
    && decide (y.buses.map (fun s => s.inputs.stream)).Nodup

/-- Bus `n` of a system right after power-on reset, with a stream of draws of its own (R228, R240; log entry 19). -/
def State.resetOfBus (n : Nat) : State :=
  { State.reset with inputs := { State.reset.inputs with stream := n } }

/-- Every instance right after power-on reset (R228, R240). -/
def System.reset : System :=
  { buses := (List.range Config.params.numBuses).map State.resetOfBus }

/-- Bus `n` takes a step and no other bus does. Which bus moves is the run's free choice (R19, R62). A bus that is no instance of
the system does not move. DESIGN CHOICE: where the chosen bus's own step is a fault or a refusal (U15, U16), so is the system's; R62 does not
say whether one bus's stop ends a run of several (log entry 19, safe). -/
def System.stepBus (y : System) (n : Nat) : Host.Outcome System Fault Refusal :=
  match y.buses[n]? with
  | none => .next y
  | some s =>
    match step s with
    | .next t => .next { buses := y.buses.set n t }
    | .fault f => .fault f
    | .refused r => .refused r

end Sys2Proof.Machine
end

