-- ==== Sys2Proof/Machine/Timing.lean ====
section
/-! DEFINITION. Durations as functions: the half-bit delay (R10, R221) and the lower bounds of R275 and R276. No rule of the
machine depends on them (R105). -/

namespace Sys2Proof.Machine

/-- `T_HALF = 1,000,000 / (2 × CLOCK_RATE)` microseconds, exactly (R10). -/
def tHalf (rate : Nat) : ℚ :=
  1000000 / (2 * (rate : ℚ))

/-- The wait a realisation makes of T_HALF, in whole microseconds (R105, U1): the parameter HALF_BIT_ROUNDING. -/
def realisedHalfBit (rate : Nat) : Nat :=
  Config.halfBitRounding (tHalf rate)

/-- The DELAYs of a command (R275), counted in its table: 4, 3, 27 and 19. -/
def delaysOf (o : Op) : Nat :=
  (tableOf o).countP (fun r => decide (r.op = .delay))

/-- The least duration of a command, in microseconds (R275). -/
def minDuration (o : Op) (rate : Nat) : ℚ :=
  (delaysOf o : ℚ) * tHalf rate

/-- The DELAYs of one payload byte's command (R276). -/
def payloadDelays : Direction → Nat
  | .write => delaysOf .send
  | .read => delaysOf .recv

/-- The DELAYs of one successful attempt with `n` payload bytes: 34 + 27n or 34 + 19n (R276). -/
def attemptDelays (d : Direction) (n : Nat) : Nat :=
  delaysOf .start + delaysOf .send + n * payloadDelays d + delaysOf .stop

/-- The DELAYs before the deadline check of payload byte `i`: 31 + 27i or 31 + 19i (R276). -/
def checkDelays (d : Direction) (i : Nat) : Nat :=
  delaysOf .start + delaysOf .send + i * payloadDelays d

end Sys2Proof.Machine
end

