-- ==== Sys2Proof/Machine/Unspecified.lean ====
section
/-! DEFINITION. The elements without a specified value (R38, R39; R29, R33): which they are, which of them a step reads and writes, and
the machine that faults when it reads one. `step` gives every register a value (log entry 2). -/

namespace Sys2Proof.Machine

/-- The elements R38 leaves unspecified after power-on. -/
inductive Element where
  | cfgSclPin
  | cfgSdaPin
  | cfgClockRate
  | op
  | mpc
  | shift
  | ackReq
  | ackBit
  | rspStatus
  | rspData
  deriving DecidableEq, Repr

/-- All of them. -/
def Element.all : List Element :=
  [.cfgSclPin, .cfgSdaPin, .cfgClockRate, .op, .mpc, .shift, .ackReq, .ackBit, .rspStatus, .rspData]

/-- Whether no rule reads the element from this state on before a rule has written it: CFG until INIT (R23), OP, MPC and the data
registers as the commands use them (R28 to R32), the response while RSP_VALID = 0 (R33). -/
def State.unread (s : State) : Element → Bool
  | .cfgSclPin => decide (s.life = .unconfigured)
  | .cfgSdaPin => decide (s.life = .unconfigured)
  | .cfgClockRate => decide (s.life = .unconfigured)
  | .op => !s.guard
  | .mpc => !s.guard
  | .shift => !(s.guard && (decide (s.op = .send) || (decide (s.op = .recv) && decide (38 < s.mpc.toNat))))
  | .ackReq => !(s.guard && decide (s.op = .recv))
  | .ackBit => !(s.guard && decide (s.op = .send) && decide (52 < s.mpc.toNat))
  | .rspStatus => !s.rspValid
  | .rspData => !s.rspValid

/-- What a micro-operation reads: the line's pin, T_HALF, and the register it puts on SDA (R23, R101, R102, R104, R130, R134). -/
def microReads : MicroOp → List Element
  | .set .scl _ => [.cfgSclPin]
  | .set .sda _ => [.cfgSdaPin]
  | .setShiftBit _ => [.cfgSdaPin, .shift]
  | .setAckReq => [.cfgSdaPin, .ackReq]
  | .delay => [.cfgClockRate]
  | .sampleAck => [.cfgSdaPin]
  | .sampleBit _ => [.cfgSdaPin]

/-- What a micro-operation finishes writing. SHIFT's last bit in a RECV is bit 0 (R134). -/
def microWrites : MicroOp → List Element
  | .sampleAck => [.ackBit]
  | .sampleBit k => if k = 0 then [.shift] else []
  | .set _ _ => []
  | .setShiftBit _ => []
  | .setAckReq => []
  | .delay => []

/-- What a command's completion reads (R77, R132, R135). -/
def completionReads : Op → List Element
  | .start => []
  | .stop => []
  | .send => [.ackBit]
  | .recv => [.shift]

/-- What a command's acceptance writes (R73, R121). -/
def acceptanceWrites : Instr → List Element
  | .start => [.op, .mpc]
  | .stop => [.op, .mpc]
  | .send _ => [.op, .mpc, .shift]
  | .recv _ => [.op, .mpc, .ackReq]

/-- Whether the micro-operation MPC points to is the last of its table. -/
def State.atLastRow (s : State) : Bool :=
  decide (s.mpc.toNat + 1 = lengthOf s.op)

/-- The rows a running command's step performs: the one MPC points to. -/
def State.row (s : State) : List MicroRow :=
  (tableOf s.op)[s.mpc.toNat]?.toList

/-- What the step of the host side from `s` to `t` reads: a collected response (R76), and the pins a TEARDOWN releases (R245). -/
def State.hostReads (s t : State) : List Element :=
  (if s.owner ≠ t.owner ∧ t.owner = none then [.rspStatus, .rspData] else [])
    ++ (if s.trace ≠ t.trace ∧ t.life = .tornDown then [.cfgSclPin, .cfgSdaPin] else [])

/-- What the step from `s` to `t` reads. -/
def State.reads (s t : State) : List Element :=
  match s.guard with
  | true => .op :: .mpc :: (s.row.flatMap (fun r => microReads r.op) ++ (if s.atLastRow then completionReads s.op else []))
  | false =>
    match s.pick with
    | .run _ => []
    | .illegal _ => []
    | .host => s.hostReads t

/-- What the step from `s` to `t` writes. INIT writes CFG when it succeeds (R242). -/
def State.writes (s t : State) : List Element :=
  match s.guard with
  | true => s.row.flatMap (fun r => microWrites r.op) ++ (if s.atLastRow then [.rspStatus, .rspData] else [])
  | false =>
    match s.pick with
    | .run i => acceptanceWrites i
    | .illegal _ => [.rspStatus, .rspData]
    | .host => if s.life ≠ t.life ∧ t.life = .configured then [.cfgSclPin, .cfgSdaPin, .cfgClockRate] else []

/-- What the step from `s` to `t` leaves without a defined value: the response at an acceptance (R33), MPC at a completion (R29). -/
def State.forgets (s t : State) : List Element :=
  (if s.guard = false ∧ t.guard = true then [.rspStatus, .rspData] else [])
    ++ (if s.guard = true ∧ t.guard = false then [.mpc] else [])

/-- A machine that knows which of its elements have no specified value now (R39). -/
structure Checked where
  state       : State
  unspecified : List Element
  deriving DecidableEq, Repr

/-- Why such a machine stops. -/
inductive CheckedFault where
  /-- The machine's own fault. -/
  | machine (f : Fault)
  /-- Raised by `Checked.step`: the step reads an element without a specified value (R39). Safe. -/
  | unspecifiedRead (e : Element)
  deriving DecidableEq, Repr

/-- Right after power-on every such element is unspecified (R38, R240). -/
def Checked.reset (u : Unspecified) : Checked :=
  { state := State.powerOn u, unspecified := Element.all }

/-- One step: `step`, but reading an element without a specified value faults and names the element (R39). -/
def Checked.step (c : Checked) : Host.Outcome Checked CheckedFault Refusal :=
  match Machine.step c.state with
  | .next t =>
    match (c.state.reads t).find? (fun e => decide (e ∈ c.unspecified)) with
    | some e => .fault (.unspecifiedRead e)
    | none =>
      .next
        { state := t
          unspecified := c.unspecified.filter (fun e => decide (e ∉ c.state.writes t)) ++ c.state.forgets t }
  | .fault f => .fault (.machine f)
  | .refused r => .refused r

/-- How many of its samples a RECV has taken before micro-operation `n` (R134: they are at 3, 8, ..., 38). -/
def samplesBefore (n : Nat) : Nat :=
  min 8 ((n + 1) / 5)

/-- SHIFT as far as a rule can still read it: SEND's byte, or the bits a RECV has sampled so far, first one most significant. -/
def State.shiftRead (s : State) : Byte :=
  match s.guard, s.op with
  | true, .send => s.shift
  | true, .recv => s.shift &&& (0xFF#8 <<< (8 - samplesBefore s.mpc.toNat))
  | true, .start => 0#8
  | true, .stop => 0#8
  | false, _ => 0#8

/-- The state with every element forgotten that no rule reads before a rule writes it. -/
def State.hideUnread (s : State) : State :=
  { s with
    cfg := if s.unread .cfgSclPin then Unspecified.named.cfg else s.cfg
    op := if s.unread .op then Unspecified.named.op else s.op
    mpc := if s.unread .mpc then Unspecified.named.mpc else s.mpc
    shift := s.shiftRead
    ackReq := if s.unread .ackReq then Unspecified.named.ackReq else s.ackReq
    ackBit := if s.unread .ackBit then Unspecified.named.ackBit else s.ackBit
    rspStatus := if s.unread .rspStatus then Unspecified.named.rspStatus else s.rspStatus
    rspData := if s.unread .rspData then Unspecified.named.rspData else s.rspData }

/-- An outcome with the unread elements of its next state forgotten. -/
def hideOutcome : StepOutcome → StepOutcome
  | .next t => .next t.hideUnread
  | .fault f => .fault f
  | .refused r => .refused r

end Sys2Proof.Machine
end

