-- ==== Sys2Proof/Machine/Wire.lean ====
section
/-! DEFINITION. What the engine's line events make on the wire (R16, R80, R103): START and STOP conditions, clock pulses and
electrical changes. The environment's drive is a parameter, held constant over the events looked at (log entry 13). -/

namespace Sys2Proof.Machine

/-- A condition on the wire (R16, R80). -/
inductive WireCondition where
  | start
  | stop
  deriving DecidableEq, Repr

/-- The levels the engine drives on both lines, true for released (R25). -/
structure Drivers where
  scl : Bool
  sda : Bool
  deriving DecidableEq, Repr

/-- The drivers of a state. -/
def State.drivers (s : State) : Drivers :=
  { scl := s.sclOut, sda := s.sdaOut }

/-- The drivers after a TRACE event (R101). -/
def Drivers.after (d : Drivers) (e : Event) : Drivers :=
  match e with
  | .set .scl v => { d with scl := v }
  | .set .sda v => { d with sda := v }
  | _ => d

/-- The line levels under an environment's drive (R103). -/
def Drivers.levels (d : Drivers) (env : Drive) : Drivers :=
  { scl := d.scl && env.sclRel, sda := d.sda && env.sdaRel }

/-- The condition between two line levels: START is SDA falling and STOP is SDA rising, while SCL is high (R80). -/
def conditionBetween (a b : Drivers) : Option WireCondition :=
  if a.scl && b.scl then
    if a.sda && !b.sda then some .start
    else if !a.sda && b.sda then some .stop
    else none
  else none

/-- The conditions a list of events makes on the wire, oldest first, from the given drivers on. -/
def conditionsOf (env : Drive) : Drivers → List Event → List WireCondition
  | _, [] => []
  | d, e :: es =>
    (conditionBetween (d.levels env) ((d.after e).levels env)).toList ++ conditionsOf env (d.after e) es

/-- How many rising edges of SCL a list of events makes on the wire. -/
def sclRisesOf (env : Drive) : Drivers → List Event → Nat
  | _, [] => 0
  | d, e :: es =>
    (if !(d.levels env).scl && ((d.after e).levels env).scl then 1 else 0) + sclRisesOf env (d.after e) es

/-- How many times the SDA driver changes its value over a list of events (R60, D39). -/
def sdaChangesOf : Drivers → List Event → Nat
  | _, [] => 0
  | d, e :: es => (if d.sda = (d.after e).sda then 0 else 1) + sdaChangesOf (d.after e) es

/-- The values SDA is set to over a list of events, in order (R131). -/
def sdaSettings : List Event → List Bool
  | [] => []
  | .set .sda v :: es => v :: sdaSettings es
  | _ :: es => sdaSettings es

/-- How many times SCL is released by a SET over a list of events (R131). -/
def sclReleases (es : List Event) : Nat :=
  es.count (.set .scl true)

/-- The levels the engine drives on SDA at each SET that releases SCL, in order (R131). -/
def sdaAtSclReleases : Drivers → List Event → List Bool
  | _, [] => []
  | d, e :: es =>
    (match e with
      | .set .scl true => [d.sda]
      | _ => []) ++ sdaAtSclReleases (d.after e) es

/-- How many of the SETs of SDA are made while the engine releases SCL (R80). -/
def sdaSetsWhileSclReleased : Drivers → List Event → Nat
  | _, [] => 0
  | d, e :: es =>
    (match e with
      | .set .sda _ => if d.scl then 1 else 0
      | _ => 0) + sdaSetsWhileSclReleased (d.after e) es

/-- The drivers after a list of events. -/
def driversAfter (d : Drivers) (es : List Event) : Drivers :=
  es.foldl Drivers.after d

/-- An environment in which no device holds a line. -/
def noDevice : Drive :=
  { sdaRel := true, sclRel := true }

end Sys2Proof.Machine
end

