-- ==== Sys2Proof/Safety.lean ====
section
/-! DEFINITION. The invariants of the machine and the terms statements use. -/

namespace Sys2Proof.Machine

/-- The engine's registers agree with each other (R24, R27, R29, R33, R34): while GUARD = 1 the bus is CONFIGURED, RSP_VALID = 0,
MPC points into the table of OP and FSM_STATE is that row's state; while GUARD = 0 FSM_STATE is IDLE. -/
def State.EngineInv (s : State) : Prop :=
  (s.guard = true →
      s.life = .configured ∧ s.rspValid = false ∧ s.mpc.toNat < lengthOf s.op
        ∧ s.fsm = fsmAt (tableOf s.op) s.mpc.toNat)
    ∧ (s.guard = false → s.fsm = .idle)

/-- The lifecycle (R22, R23, R38): a CONFIGURED bus has a legal CFG and both pins open-drain; otherwise both lines are
released and both pins are inputs. -/
def State.LifeInv (s : State) : Prop :=
  (s.life = .configured → Cfg.legal s.params s.cfg = true ∧ s.sclMode = .openDrain ∧ s.sdaMode = .openDrain)
    ∧ (s.life ≠ .configured →
      s.sclOut = true ∧ s.sdaOut = true ∧ s.sclMode = .highImpedance ∧ s.sdaMode = .highImpedance)

/-- Every caller's operations and TRANSFER call are well formed (R51, R160, R161), T0 is no later than the caller's last NOW() (R220),
and a TEARDOWN that has passed its check has found the bus configured (R245). -/
def State.CallersInv (s : State) : Prop :=
  ∀ c ∈ s.callers, (∀ o ∈ c.todo ++ c.again, HostOp.wf s.params o = true)
    ∧ (∀ t, c.call = some t → Call.wf s.params t = true ∧ t.t0 ≤ c.clock) ∧ (c.tearingDown = true → s.life ≠ .unconfigured)

/-- The parameters are at least 1, and there are NUM_CALLERS callers (R9). -/
def State.SizesInv (s : State) : Prop :=
  Params.wf s.params = true ∧ s.callers.length = s.params.numCallers

/-- No register of the engine, no pin, no TRACE entry and no environment drive differs. -/
def State.SameEngine (s t : State) : Prop :=
  t.life = s.life ∧ t.cfg = s.cfg ∧ t.guard = s.guard ∧ t.fsm = s.fsm ∧ t.op = s.op ∧ t.mpc = s.mpc ∧ t.shift = s.shift
    ∧ t.ackReq = s.ackReq ∧ t.ackBit = s.ackBit ∧ t.sclOut = s.sclOut ∧ t.sdaOut = s.sdaOut ∧ t.sclMode = s.sclMode
    ∧ t.sdaMode = s.sdaMode ∧ t.rspValid = s.rspValid ∧ t.rspStatus = s.rspStatus ∧ t.rspData = s.rspData
    ∧ t.trace = s.trace ∧ t.env = s.env

/-- No lifecycle register, configuration field or pin mode differs: what no command writes (R22, R23, R108). -/
def State.SamePins (s t : State) : Prop :=
  t.life = s.life ∧ t.cfg = s.cfg ∧ t.sclMode = s.sclMode ∧ t.sdaMode = s.sdaMode

/-- The state with the environment's drive of SCL forgotten: the last drawn one and those fixed for the coming SAMPLEs (R35). -/
def State.hideScl (s : State) : State :=
  { s with
    env := { s.env with sclRel := true }
    inputs := { s.inputs with env := s.inputs.env.map (fun d => { d with sclRel := true }) } }

/-- The host side is the same: the callers with every byte of their buffers, whose command is running, the parameters and the
host's draws, and whose draws they are (R51: the engine never touches the buffer). -/
def State.SameHost (s t : State) : Prop :=
  t.callers = s.callers ∧ (∀ k i, t.bufferByte k i = s.bufferByte k i) ∧ t.owner = s.owner ∧ t.params = s.params
    ∧ t.inputs.elapsed = s.inputs.elapsed ∧ t.inputs.alloc = s.inputs.alloc ∧ t.inputs.grant = s.inputs.grant
    ∧ t.inputs.stream = s.inputs.stream

/-- The machine's invariant. -/
def State.Inv (s : State) : Prop :=
  s.EngineInv ∧ s.LifeInv ∧ s.CallersInv ∧ s.SizesInv

/-- One line's driver register (R25). -/
def State.driver (s : State) : Line → Bool
  | .scl => s.sclOut
  | .sda => s.sdaOut

/-- The drivers follow the tables (R25, R123, R130, R134): while a command is in flight each line it has set so far holds the
level its last SET gave it, and while the engine is idle the lines are never 1/0. -/
def State.LineInv (s : State) : Prop :=
  (s.guard = true →
      ∀ l v, lastSet s.shift s.ackReq l ((tableOf s.op).take s.mpc.toNat) = some v → s.driver l = v)
    ∧ (s.guard = false → ¬ (s.sclOut = true ∧ s.sdaOut = false))

/-- The engine's registers agree, and the elements without a specified value are among those no rule reads before it is written (R39). -/
def Checked.Inv (c : Checked) : Prop :=
  c.state.EngineInv ∧ ∀ e ∈ c.unspecified, c.state.unread e = true

/-- `k` steps of the machine (each is one engine step while GUARD = 1). -/
def run (k : Nat) (s : State) : Host.Outcome State Fault Refusal :=
  Host.Core.run Sys2Proof.core k s

end Sys2Proof.Machine
end

