-- ==== Sys2Proof/Certificates/Slice0/Obligations.lean ====
section
/-! DEFINITION. The statements about the engine, its lifecycle and the reference host sequence, from the spec's numbered rules. -/

open Sys2Proof Sys2Proof.Machine

/-! ### Encoding (30_encoding.md) -/

/-- Decoding an encoded well-formed instruction gives it back, every operand at every value (R72, R73, R75). -/
def Obligations.DecodeOfEncode : Prop :=
  ∀ i : Instr, i.wf = true → decode (encode i) = .ok i ∧ decodeTableWord 16 (encode i).toNat = some i

/-- Each word has one meaning: a word that decodes is the encoding of what it decodes to (R72, R75). -/
def Obligations.EncodeOfDecode : Prop :=
  ∀ (w : Cmd) (i : Instr), decode w = .ok i → encode i = w

/-- R72: a word selects a command when `(cmd & mask) = match`, with `DATA = cmd[15:8]` and `ACK = cmd[2]`, and at most one row. -/
def Obligations.OpcodeMapSelects : Prop :=
  ∀ w : Cmd,
    (decode w = .ok .start ↔ w &&& 0xFFFF#16 = 0x0000#16)
    ∧ (decode w = .ok .stop ↔ w &&& 0xFFFF#16 = 0x0001#16)
    ∧ (∀ b : Byte, decode w = .ok (.send b) ↔ w &&& 0x00FF#16 = 0x0002#16 ∧ b = w.extractLsb' 8 8)
    ∧ (∀ a : Bool, decode w = .ok (.recv a) ↔ w &&& 0xFFFB#16 = 0x0003#16 ∧ a = w.getLsbD 2)
    ∧ (∀ r ∈ opcodeMap, ∀ r' ∈ opcodeMap, r.selects w = true → r'.selects w = true → r = r')

/-- The illegal words are exactly those in which a field the opcode does not use is nonzero, and 260 words are legal (R74). -/
def Obligations.IllegalWordsAreUnusedFields : Prop :=
  (∀ w : Cmd,
    ((∃ e, decode w = .error e) ↔
      w.extractLsb' 3 5 ≠ 0#5
      ∨ (w.getLsbD 2 = true ∧ w.extractLsb' 0 2 ≠ 3#2)
      ∨ (w.extractLsb' 8 8 ≠ 0#8 ∧ w.extractLsb' 0 2 ≠ 2#2))
    ∧ ((∃ e, decode w = .error e) ↔ ∀ r ∈ opcodeMap, r.selects w = false))
    ∧ ∃ l : List Cmd, l.length = 260 ∧ l.Nodup ∧ ∀ w : Cmd, w ∈ l ↔ ∃ i, decode w = .ok i

/-- Words written out from the spec's encodings (R72, R82; vectors V200 to V217) decode to what they stand for. -/
def Obligations.SpecWordsDecode : Prop :=
  decode 0x0000#16 = .ok .start ∧ decode 0x0001#16 = .ok .stop ∧ decode 0xA502#16 = .ok (.send 0xA5#8)
    ∧ decode 0x0802#16 = .ok (.send 0x08#8) ∧ decode 0x0003#16 = .ok (.recv false) ∧ decode 0x0007#16 = .ok (.recv true)
    ∧ decode 0x0004#16 = .error .ackOutsideRecv ∧ decode 0x0008#16 = .error .reservedNonzero
    ∧ decode 0x0100#16 = .error .dataOutsideSend ∧ decode 0x0107#16 = .error .dataOutsideSend

/-- Every instruction is well formed, its word carries its opcode in `cmd[1:0]` and zeros in `cmd[7:3]` (R71). -/
def Obligations.OpcodeFieldOfEveryInstr : Prop :=
  ∀ i : Instr, Sys2Proof.Laws.OpField.Statement i

/-- R83: the expansions of the pseudo-instructions, WRITE's and READ's for at least one byte. -/
def Obligations.PseudoInstructionsExpand : Prop :=
  (∀ a7 : BitVec 7, expand (.addrw a7) = some [.send ((a7.setWidth 8 <<< 1) ||| 0#8)])
    ∧ (∀ a7 : BitVec 7, expand (.addrr a7) = some [.send ((a7.setWidth 8 <<< 1) ||| 1#8)])
    ∧ expand .recvlast = some [.recv false]
    ∧ (∀ (a7 : BitVec 7) (bs : List Byte), bs ≠ [] →
        expand (.write a7 bs) = some (([.start, .send ((a7.setWidth 8 <<< 1) ||| 0#8)] : List Instr) ++ bs.map Instr.send ++ ([.stop] : List Instr)))
    ∧ (∀ (a7 : BitVec 7) (n : Nat), 1 ≤ n →
        expand (.read a7 n) =
          some (([.start, .send ((a7.setWidth 8 <<< 1) ||| 1#8)] : List Instr) ++ List.replicate (n - 1) (Instr.recv true)
            ++ ([.recv false, .stop] : List Instr)))

/-- R166 with R78: the address byte, bit by bit, and its examples. -/
def Obligations.AddressByteFormat : Prop :=
  (∀ (a7 : BitVec 7) (d : Direction),
      addressByte a7 d = (a7.setWidth 8 <<< 1) ||| (if d = .read then 1#8 else 0#8)
      ∧ (addressByte a7 d).extractLsb' 1 7 = a7 ∧ ((addressByte a7 d).getLsbD 0 = true ↔ d = .read))
    ∧ addressByte 0x50#7 .write = 0xA0#8 ∧ addressByte 0x50#7 .read = 0xA1#8 ∧ addressByte 0x7F#7 .read = 0xFF#8
    ∧ addressByte 0x00#7 .write = 0x00#8

/-! ### Acceptance, micro-operations, completion (41_bus_primitives.md section 1) -/

/-- A step runs the decoded instruction: with `cmd_ready` a presented word that decodes is run by `exec`, and while GUARD = 1 the
command in flight is; nothing is added around `exec`. `withFetchWord` presents its word so. That `exec` is one engine step is the
model's choice (log entry 1), and so is where a word is presented (log entry 9). -/
def Obligations.StepRunsDecodedInstruction : Prop :=
  (∀ (s : State) (w : Cmd) (i : Instr), s.life = .configured → s.guard = false → s.port = some w → decode w = .ok i →
      step s = exec i s)
    ∧ (∀ s : State, s.guard = true → step s = exec s.inFlight s)
    ∧ (∀ (s : State) (w : Nat) (i : Instr), decodeTableWord 16 w = some i →
        step (s.withFetchWord 16 w) = exec i (s.withFetchWord 16 w))

/-- Acceptance (R121): every command, with `cmd_ready`, in any line state. No micro-operation is performed. -/
def Obligations.AcceptanceSetsUpCommand : Prop :=
  ∀ (i : Instr) (s : State), s.life = .configured → s.guard = false →
    ∃ a, exec i s = .next a
      ∧ a.guard = true ∧ a.op = opOf i ∧ a.mpc = 0#6 ∧ a.rspValid = false ∧ a.port = none
      ∧ a.trace = s.trace ++ ([.accept (encode i)] : List Event)
      ∧ a.fsm = (match i with
          | .start => .startAsserted
          | .stop => .stopAsserted
          | .send _ => .bitTransfer
          | .recv _ => .bitTransfer)
      ∧ a.shift = (match i with
          | .send b => b
          | _ => s.shift)
      ∧ a.ackReq = (match i with
          | .recv k => k
          | _ => s.ackReq)
      ∧ a.ackBit = s.ackBit ∧ a.sclOut = s.sclOut ∧ a.sdaOut = s.sdaOut ∧ a.env = s.env ∧ s.SamePins a ∧ s.SameHost a

/-- R202: a word that matches no row is answered at once with ILLEGAL_COMMAND, before the guard is taken and with no line activity;
nothing but the response, TRACE and the port changes. -/
def Obligations.IllegalWordAnsweredAtOnce : Prop :=
  ∀ (s : State) (w : Cmd), s.life = .configured → s.guard = false → s.port = some w →
    (∀ r ∈ opcodeMap, r.selects w = false) →
    ∃ t, step s = .next t
      ∧ t.rspStatus = .illegalCommand ∧ t.rspData = 0x00#8 ∧ t.rspValid = true
      ∧ t.trace = s.trace ++ ([.accept w, .done .illegalCommand 0x00#8] : List Event) ∧ t.port = none
      ∧ t.guard = false ∧ t.fsm = s.fsm ∧ t.op = s.op ∧ t.mpc = s.mpc ∧ t.shift = s.shift ∧ t.ackReq = s.ackReq
      ∧ t.ackBit = s.ackBit ∧ t.sclOut = s.sclOut ∧ t.sdaOut = s.sdaOut ∧ t.env = s.env ∧ t.inputs = s.inputs
      ∧ s.SamePins t ∧ s.SameHost t

/-- One engine step performs exactly one micro-operation of the command in flight, the one MPC points to; completion takes place in
the step of the last one (R121, R138). -/
def Obligations.OneMicroOperationPerStep : Prop :=
  ∀ (s : State) (row : MicroRow), s.guard = true → (tableOf s.op)[s.mpc.toNat]? = some row →
    ∃ t, step s = .next t ∧ exec s.inFlight s = .next t
      ∧ t.drivers = s.drivers.after (s.eventOf row.op)
      ∧ (s.mpc.toNat + 1 < lengthOf s.op →
          t.trace = s.trace ++ [s.eventOf row.op] ∧ t.mpc.toNat = s.mpc.toNat + 1 ∧ t.guard = true
          ∧ t.fsm = fsmAt (tableOf s.op) (s.mpc.toNat + 1)
          ∧ t.rspValid = s.rspValid ∧ t.rspStatus = s.rspStatus ∧ t.rspData = s.rspData)
      ∧ (s.mpc.toNat + 1 = lengthOf s.op →
          t.trace = s.trace ++ ([s.eventOf row.op, .done t.rspStatus t.rspData] : List Event) ∧ t.guard = false ∧ t.fsm = .idle
          ∧ t.rspValid = true)

/-- While GUARD = 1 no other command is accepted and nobody else touches the bus (R58, R59): a step appends one line event of the
running command (and its `Done` if it completes), and a command presented meanwhile waits. That a waiting command's `exec` leaves the
state as it is, and that `step` lets no caller move meanwhile, are the model's choices (log entries 1 and 17). -/
def Obligations.GuardExcludesOthers : Prop :=
  ∀ s : State, s.guard = true →
    (∀ t, step s = .next t →
      s.SamePins t ∧ s.SameHost t ∧ t.port = s.port
      ∧ ∃ e, (t.trace = s.trace ++ [e] ∨ t.trace = s.trace ++ ([e, .done t.rspStatus t.rspData] : List Event))
        ∧ ((∃ l v, e = .set l v) ∨ e = .delay ∨ ∃ v, e = .sample v))
    ∧ (∀ j : Instr, j ≠ s.inFlight → exec j s = .next s)

/-- A caller may take steps of its own while a command runs (R138, R69): they touch no register, line or port, and
with the draws of both fixed in advance the engine's step and the caller's, where it is not waiting, can be taken in either order. No INIT and no effect of a TEARDOWN is
among them (R59). That the agent to move is a free choice beside `step` is the model's choice (log entry 17). -/
def Obligations.CallersMoveBesideACommand : Prop :=
  ∀ (s : State) (k : Nat), s.guard = true →
    (∀ t, s.agentStep (.caller k) = .next t → s.SameEngine t ∧ t.port = s.port ∧ t.owner = s.owner)
    ∧ (∀ a t, s.inputs.env ≠ [] → s.inputs.elapsed ≠ [] → s.agentStep .engine = .next a → s.agentStep (.caller k) = .next t →
      t ≠ s → ∃ z, t.agentStep .engine = .next z ∧ a.agentStep (.caller k) = .next z)

/-- Where a command stops. One presented before INIT or after TEARDOWN is stuck (R22, U16, D22), and MPC at or past the end of its
table, which the invariant rules out, faults (U13). That both are faults with names of their own is the model's choice (log entry 16). -/
def Obligations.WhereCommandsStop : Prop :=
  (∀ (i : Instr) (s : State), s.guard = false →
    (s.life = .unconfigured → exec i s = .fault .stuckUnconfigured)
    ∧ (s.life = .tornDown → exec i s = .fault .stuckTornDown))
    ∧ (∀ s : State, s.guard = true → lengthOf s.op ≤ s.mpc.toNat → step s = .fault .mpcBeyondTable)
    ∧ (∀ s : State, s.EngineInv → s.guard = true → ∃ t, step s = .next t)

/-! ### The four commands, from acceptance to completion -/

/-- START (R124): 9 engine steps, its eight micro-operations in order in START_ASSERTED, OK and 0x00, exit 0/0, no data register
changed. With no device holding a line it makes one START condition, from every line state a command leaves, and none if the
environment holds SCL low. -/
def Obligations.StartRunsToCompletion : Prop :=
  ∀ s : State, s.life = .configured → s.guard = false →
    ∃ a t es, exec .start s = .next a ∧ run 8 a = .next t
      ∧ (∀ k, k < 8 → ∃ u, run k a = .next u ∧ u.guard = true ∧ u.mpc.toNat = k ∧ u.fsm = .startAsserted)
      ∧ es = ([.set .sda true, .delay, .set .scl true, .delay, .set .sda false, .delay, .set .scl false, .delay] : List Event)
      ∧ t.trace = s.trace ++ ([.accept 0x0000#16] : List Event) ++ es ++ ([.done .ok 0x00#8] : List Event)
      ∧ t.sclOut = false ∧ t.sdaOut = false
      ∧ t.rspValid = true ∧ t.rspStatus = .ok ∧ t.rspData = 0x00#8 ∧ t.guard = false ∧ t.fsm = .idle ∧ t.op = .start
      ∧ t.shift = s.shift ∧ t.ackReq = s.ackReq ∧ t.ackBit = s.ackBit ∧ t.port = none ∧ s.SamePins t ∧ s.SameHost t
      ∧ (¬ (s.sclOut = true ∧ s.sdaOut = false) → conditionsOf noDevice s.drivers es = [.start])
      ∧ (∀ env : Drive, env.sclRel = false → conditionsOf env s.drivers es = [])

/-- STOP (R127): 7 engine steps, its six micro-operations in order in STOP_ASSERTED, OK and 0x00, exit 1/1, no data register changed.
With no device holding a line it makes one STOP condition if SCL was driven low, and a START condition before it if both lines were
released; none if a device holds SDA low. -/
def Obligations.StopRunsToCompletion : Prop :=
  ∀ s : State, s.life = .configured → s.guard = false →
    ∃ a t es, exec .stop s = .next a ∧ run 6 a = .next t
      ∧ (∀ k, k < 6 → ∃ u, run k a = .next u ∧ u.guard = true ∧ u.mpc.toNat = k ∧ u.fsm = .stopAsserted)
      ∧ es = ([.set .sda false, .delay, .set .scl true, .delay, .set .sda true, .delay] : List Event)
      ∧ t.trace = s.trace ++ ([.accept 0x0001#16] : List Event) ++ es ++ ([.done .ok 0x00#8] : List Event)
      ∧ t.sclOut = true ∧ t.sdaOut = true
      ∧ t.rspValid = true ∧ t.rspStatus = .ok ∧ t.rspData = 0x00#8 ∧ t.guard = false ∧ t.fsm = .idle ∧ t.op = .stop
      ∧ t.shift = s.shift ∧ t.ackReq = s.ackReq ∧ t.ackBit = s.ackBit ∧ t.port = none ∧ s.SamePins t ∧ s.SameHost t
      ∧ (s.sclOut = false → conditionsOf noDevice s.drivers es = [.stop])
      ∧ (s.sclOut = true → s.sdaOut = true → conditionsOf noDevice s.drivers es = [.start, .stop])
      ∧ (∀ env : Drive, env.sdaRel = false → conditionsOf env s.drivers es = [])

/-- SEND (R130): 56 engine steps, the eight bits most significant first, then the acknowledge bit, sampled from the environment's
drive alone; OK if it is 0 and BUS_ERROR if it is 1; exit 0/1. For every byte and whatever the environment draws. -/
def Obligations.SendRunsToCompletion : Prop :=
  ∀ (s : State) (b : Byte), s.life = .configured → s.guard = false →
    ∃ a t v, exec (.send b) s = .next a ∧ run 55 a = .next t
      ∧ (∀ k, k < 55 → ∃ u, run k a = .next u ∧ u.guard = true ∧ u.mpc.toNat = k ∧ u.shift = b
          ∧ u.fsm = (if k < 48 then .bitTransfer else .ackPhase))
      ∧ v = (s.inputs.afterAcceptance.driveAt 0).sdaRel
      ∧ t.trace = s.trace ++ ([.accept ((b.setWidth 16 <<< 8) ||| 0x0002#16)] : List Event)
          ++ (([7, 6, 5, 4, 3, 2, 1, 0] : List Nat).flatMap fun k =>
              ([.set .sda (b.getLsbD k), .delay, .set .scl true, .delay, .set .scl false, .delay] : List Event))
          ++ ([.set .sda true, .delay, .set .scl true, .delay, .sample v, .set .scl false, .delay] : List Event)
          ++ ([.done (if v then .busError else .ok) 0x00#8] : List Event)
      ∧ t.ackBit = v ∧ t.rspStatus = (if v then .busError else .ok) ∧ t.rspData = 0x00#8 ∧ t.rspValid = true
      ∧ t.shift = b ∧ t.ackReq = s.ackReq ∧ t.sclOut = false ∧ t.sdaOut = true
      ∧ t.guard = false ∧ t.fsm = .idle ∧ t.op = .send ∧ t.port = none ∧ s.SamePins t ∧ s.SameHost t

/-- RECV (R134, R135): 49 engine steps; the eight samples, first one most significant, are the byte returned; then the acknowledge
requested; always OK; exit 0/1. For either request and whatever the environment draws. -/
def Obligations.RecvRunsToCompletion : Prop :=
  ∀ (s : State) (ack : Bool), s.life = .configured → s.guard = false →
    ∃ a t v0 v1 v2 v3 v4 v5 v6 v7, exec (.recv ack) s = .next a ∧ run 48 a = .next t
      ∧ (∀ k, k < 48 → ∃ u, run k a = .next u ∧ u.guard = true ∧ u.mpc.toNat = k ∧ u.ackReq = ack
          ∧ u.fsm = (if k < 41 then .bitTransfer else .ackPhase))
      ∧ [v0, v1, v2, v3, v4, v5, v6, v7] =
          ([0, 1, 2, 3, 4, 5, 6, 7] : List Nat).map (fun n => (s.inputs.afterAcceptance.driveAt n).sdaRel)
      ∧ t.trace = s.trace ++ ([.accept (if ack then 0x0007#16 else 0x0003#16), .set .sda true] : List Event)
          ++ (([v0, v1, v2, v3, v4, v5, v6, v7] : List Bool).flatMap fun v =>
              ([.set .scl true, .delay, .sample v, .set .scl false, .delay] : List Event))
          ++ ([.set .sda (!ack), .delay, .set .scl true, .delay, .set .scl false, .delay, .set .sda true] : List Event)
          ++ ([.done .ok t.shift] : List Event)
      ∧ t.shift = BitVec.ofBoolListBE [v0, v1, v2, v3, v4, v5, v6, v7]
      ∧ t.rspData = t.shift ∧ t.rspStatus = .ok ∧ t.rspValid = true
      ∧ t.ackReq = ack ∧ t.ackBit = s.ackBit ∧ t.sclOut = false ∧ t.sdaOut = true
      ∧ t.guard = false ∧ t.fsm = .idle ∧ t.op = .recv ∧ t.port = none ∧ s.SamePins t ∧ s.SameHost t

/-- R123: the line state each command leaves, for any line state at entry. -/
def Obligations.LineStateLeftByCommands : Prop :=
  ∀ (i : Instr) (s : State), s.life = .configured → s.guard = false →
    ∃ a t, exec i s = .next a ∧ run (lengthOf (opOf i)) a = .next t
      ∧ (t.sclOut, t.sdaOut) =
          (match i with
          | .start => (false, false)
          | .stop => (true, true)
          | .send _ => (false, true)
          | .recv _ => (false, true))

/-- Every accepted command completes, with the guard released, after exactly 9, 7, 56 or 49 engine steps, whatever the draws (R138,
R139): the guard is held after every smaller number. -/
def Obligations.CommandsTakeFixedSteps : Prop :=
  ∀ (i : Instr) (s : State), s.life = .configured → s.guard = false →
    ∃ a, exec i s = .next a
      ∧ engineSteps i = (match i with
          | .start => 9
          | .stop => 7
          | .send _ => 56
          | .recv _ => 49)
      ∧ (∀ k, k + 1 < engineSteps i → ∃ t, run k a = .next t ∧ t.guard = true ∧ t.op = opOf i ∧ t.mpc.toNat = k)
      ∧ (∃ t, run (engineSteps i - 1) a = .next t ∧ t.guard = false ∧ t.rspValid = true)

/-- R137: the FSM_STATE transitions, and no others. -/
def Obligations.FsmStateTransitions : Prop :=
  ∀ s t : State, s.EngineInv → step s = .next t →
    (s.guard = false → ∀ w, s.port = some w → s.life = .configured →
      t.fsm = (match decode w with
        | .ok .start => .startAsserted
        | .ok .stop => .stopAsserted
        | .ok (.send _) => .bitTransfer
        | .ok (.recv _) => .bitTransfer
        | .error _ => .idle))
    ∧ (s.guard = false → (s.port = none ∨ s.life ≠ .configured) → t.fsm = .idle)
    ∧ (s.guard = true →
      t.fsm = (match s.op with
        | .start => if s.mpc.toNat + 1 = 8 then .idle else .startAsserted
        | .stop => if s.mpc.toNat + 1 = 6 then .idle else .stopAsserted
        | .send => if s.mpc.toNat + 1 = 55 then .idle else if 48 ≤ s.mpc.toNat + 1 then .ackPhase else .bitTransfer
        | .recv => if s.mpc.toNat + 1 = 48 then .idle else if 41 ≤ s.mpc.toNat + 1 then .ackPhase else .bitTransfer))

/-- R128: START then STOP leaves both lines released, and with no device holding a line the pair makes a START condition and then a
STOP condition, from every line state a command leaves. -/
def Obligations.StartThenStopReleasesLines : Prop :=
  ∀ s : State, s.life = .configured → s.guard = false →
    ∃ a b c t es, exec .start s = .next a ∧ run 8 a = .next b ∧ exec .stop b = .next c ∧ run 6 c = .next t
      ∧ t.sclOut = true ∧ t.sdaOut = true
      ∧ t.trace = s.trace ++ es
      ∧ (¬ (s.sclOut = true ∧ s.sdaOut = false) → conditionsOf noDevice s.drivers es = [.start, .stop])

/-- R131: SEND sets SDA to the eight bits of its byte, most significant first, and then releases it for the acknowledge; it releases SCL
nine times, and at those releases SDA is driven to these nine levels in order: one setting per clock pulse. It succeeds iff the acknowledge was sampled low. Entered with SCL driven low, as every command of a
transaction leaves it, each setting is made while SCL is driven low and the wire gets nine clock pulses. -/
def Obligations.SendBitSequence : Prop :=
  ∀ (s : State) (b : Byte), s.life = .configured → s.guard = false →
    ∃ a t es, exec (.send b) s = .next a ∧ run 55 a = .next t ∧ t.trace = s.trace ++ es
      ∧ sdaSettings es = ([7, 6, 5, 4, 3, 2, 1, 0] : List Nat).map (fun k => b.getLsbD k) ++ [true]
      ∧ sclReleases es = 9
      ∧ sdaAtSclReleases s.drivers es = ([7, 6, 5, 4, 3, 2, 1, 0] : List Nat).map (fun k => b.getLsbD k) ++ [true]
      ∧ (t.rspStatus = .ok ↔ .sample false ∈ es)
      ∧ (s.sclOut = false → sdaSetsWhileSclReleased s.drivers es = 0 ∧ sclRisesOf noDevice s.drivers es = 9)

/-- R132: the acknowledge is the single comparison ACKBIT = 0, and SEND reports only OK or BUS_ERROR. -/
def Obligations.AckDetection : Prop :=
  ∀ s : State, s.guard = true → s.op = .send → s.mpc = 54#6 →
    ∃ t, exec s.inFlight s = .next t
      ∧ t.rspStatus = (if s.ackBit = false then .ok else .busError)
      ∧ (t.rspStatus = .ok ∨ t.rspStatus = .busError)

/-! ### Lines (40_gpio_line.md) -/

/-- R103 with R102: a line is low exactly when some device drives it low, and a SAMPLE reads that level at its instant, records it and
changes nothing else than MPC, its own destination (ACKBIT or SHIFT, not the other) and the environment's draw. -/
def Obligations.LineIsWiredAnd : Prop :=
  ∀ s : State,
    (s.sdaLine = false ↔ s.sdaOut = false ∨ s.env.sdaRel = false)
    ∧ (s.sclLine = false ↔ s.sclOut = false ∨ s.env.sclRel = false)
    ∧ s.sampleLevel = (s.perform .sampleAck).sdaLine ∧ (s.perform .sampleAck).ackBit = s.sampleLevel
    ∧ (∀ k : Fin 8, s.sampleLevel = (s.perform (.sampleBit k)).sdaLine ∧ (s.perform (.sampleBit k)).shift.getLsbD k.val = s.sampleLevel
        ∧ ∀ j : Fin 8, j ≠ k → (s.perform (.sampleBit k)).shift.getLsbD j.val = s.shift.getLsbD j.val)
    ∧ (∀ m : MicroOp, (m = .sampleAck ∨ ∃ k, m = .sampleBit k) →
        (s.perform m).trace = s.trace ++ [.sample s.sampleLevel] ∧ (s.perform m).mpc = s.mpc + 1#6
        ∧ (s.perform m).env = s.inputs.nextDrive
        ∧ (s.perform m).inputs.elapsed = s.inputs.elapsed ∧ (s.perform m).inputs.alloc = s.inputs.alloc
        ∧ (s.perform m).inputs.grant = s.inputs.grant ∧ (s.perform m).inputs.stream = s.inputs.stream
        ∧ (m = .sampleAck → (s.perform m).shift = s.shift) ∧ ((∃ k, m = .sampleBit k) → (s.perform m).ackBit = s.ackBit)
        ∧ { s.perform m with
            shift := s.shift, ackBit := s.ackBit, trace := s.trace, mpc := s.mpc, env := s.env, inputs := s.inputs } = s)
    ∧ (s.sdaOut = false → s.sampleLevel = false)
    ∧ (s.sdaOut = true → s.sampleLevel = s.inputs.nextDrive.sdaRel)

/-- The engine never reads SCL (R106, R35): two states that differ only in the environment's drive of SCL, past and to come, have the
same step of every command, up to that drive. -/
def Obligations.SclIsNeverRead : Prop :=
  ∀ (i : Instr) (s s' t : State), s.hideScl = s'.hideScl → exec i s = .next t →
    ∃ t', exec i s' = .next t' ∧ t'.hideScl = t.hideScl

/-- SET and DELAY (R101, R104): what they change, and that they change nothing else. -/
def Obligations.SetAndDelayFrame : Prop :=
  (∀ (s : State) (l : Line) (v : Bool),
      (s.perform (.set l v)).driver l = v
      ∧ (∀ l', l' ≠ l → (s.perform (.set l v)).driver l' = s.driver l')
      ∧ (s.perform (.set l v)).trace = s.trace ++ [.set l v]
      ∧ (s.perform (.set l v)).mpc = s.mpc + 1#6
      ∧ { s.perform (.set l v) with sclOut := s.sclOut, sdaOut := s.sdaOut, trace := s.trace, mpc := s.mpc } = s)
    ∧ (∀ s : State,
      (s.perform .delay).trace = s.trace ++ [.delay] ∧ (s.perform .delay).mpc = s.mpc + 1#6
      ∧ { s.perform .delay with trace := s.trace, mpc := s.mpc } = s)

/-- At every SAMPLE of SEND and RECV the engine has released SDA, so the sample is the environment's drive alone (R130, R134). -/
def Obligations.SamplesAreTheEnvironments : Prop :=
  ∀ (s : State) (row : MicroRow), s.LineInv → s.guard = true → (tableOf s.op)[s.mpc.toNat]? = some row →
    (row.op = .sampleAck ∨ ∃ k, row.op = .sampleBit k) →
    s.sdaOut = true ∧ s.sampleLevel = s.inputs.nextDrive.sdaRel

/-! ### Frames of the commands -/

/-- What one engine step of START or STOP leaves unchanged: every data register and flag, the lifecycle, the configuration, the pins,
every byte of every buffer, the environment's drive and draws; mid-command also the response (R124, R127). -/
def Obligations.StartStopFrame : Prop :=
  ∀ (i : Instr) (s t : State), (i = .start ∨ i = .stop) → exec i s = .next t →
    t.shift = s.shift ∧ t.ackReq = s.ackReq ∧ t.ackBit = s.ackBit ∧ t.env = s.env ∧ t.inputs.env = s.inputs.env
    ∧ s.SamePins t ∧ s.SameHost t
    ∧ (s.guard = true → t.guard = true → t.rspValid = s.rspValid ∧ t.rspStatus = s.rspStatus ∧ t.rspData = s.rspData)
    ∧ (s.guard = true → t.port = s.port ∧ t.op = s.op)

/-- What one engine step of SEND leaves unchanged: ACKREQ always, SHIFT after the acceptance, ACKBIT and the environment's drive but
at MPC 52, and the rest as for START (R130). -/
def Obligations.SendFrame : Prop :=
  ∀ (b : Byte) (s t : State), exec (.send b) s = .next t →
    t.ackReq = s.ackReq ∧ (s.guard = true → t.shift = s.shift)
    ∧ ((s.guard = false ∨ s.mpc ≠ 52#6) → t.ackBit = s.ackBit ∧ t.env = s.env ∧ t.inputs.env = s.inputs.env)
    ∧ s.SamePins t ∧ s.SameHost t
    ∧ (s.guard = true → t.guard = true → t.rspValid = s.rspValid ∧ t.rspStatus = s.rspStatus ∧ t.rspData = s.rspData)
    ∧ (s.guard = true → t.port = s.port ∧ t.op = s.op)

/-- What one engine step of RECV leaves unchanged: ACKBIT always, ACKREQ after the acceptance, SHIFT and the environment's drive but at
its eight sampling steps, and the rest as for START (R134). -/
def Obligations.RecvFrame : Prop :=
  ∀ (k : Bool) (s t : State), exec (.recv k) s = .next t →
    t.ackBit = s.ackBit ∧ (s.guard = true → t.ackReq = s.ackReq)
    ∧ ((s.guard = false ∨ s.mpc.toNat ∉ [3, 8, 13, 18, 23, 28, 33, 38]) →
        t.shift = s.shift ∧ t.env = s.env ∧ t.inputs.env = s.inputs.env)
    ∧ s.SamePins t ∧ s.SameHost t
    ∧ (s.guard = true → t.guard = true → t.rspValid = s.rspValid ∧ t.rspStatus = s.rspStatus ∧ t.rspData = s.rspData)
    ∧ (s.guard = true → t.port = s.port ∧ t.op = s.op)

/-! ### The whole machine -/

/-- Every step keeps the invariant: GUARD, FSM_STATE, OP and MPC agree, a CONFIGURED bus has a legal CFG and configured pins, every
TRANSFER call keeps its bounds and its buffer the canonical form, the parameters are at least 1 and there are NUM_CALLERS callers (R24,
R27, R29, R34; R22, R23, R38; R51, R160; R9). -/
def Obligations.InvariantKeptByStep : Prop :=
  ∀ s t : State, s.Inv → step s = .next t → t.Inv

/-- Every step keeps the drivers on the tables: a line a running command has set holds that level, and idle lines are never 1/0
(R25, R123, R124). -/
def Obligations.LineInvariantKeptByStep : Prop :=
  ∀ s t : State, s.LineInv → step s = .next t → t.LineInv

/-- Both invariants hold at reset, and the buses at reset are NUM_BUSES, with unrelated draws (log entry 19). Of the reset values the model chose, they rest on these: the
callers' part of the invariant on callers with nothing to do (log entry 9), the sizes on parameters of at least 1 and NUM_CALLERS callers
(log entries 9 and 10). They rest on no value R38 leaves unspecified (log entry 2). -/
def Obligations.InvariantsHoldAtReset : Prop :=
  State.reset.Inv ∧ State.reset.LineInv ∧ System.reset.wf = true

/-- R240 with R38 and R39: power-on reset, whatever the unspecified elements hold. A machine that faults on reading an element without a
specified value, naming it, never does so from an invariant that holds after power-on and that every step keeps; and two states that
differ only in elements no rule reads before it is written have the same step, up to such elements. The values `State.reset` itself names
for the unspecified elements are the model's choice (log entry 2), and no clause rests on them. -/
def Obligations.ResetState : Prop :=
  (∀ u : Unspecified, (State.powerOn u).life = .unconfigured ∧ (State.powerOn u).guard = false ∧ (State.powerOn u).fsm = .idle
      ∧ (State.powerOn u).sclOut = true ∧ (State.powerOn u).sdaOut = true
      ∧ (State.powerOn u).sclMode = .highImpedance ∧ (State.powerOn u).sdaMode = .highImpedance
      ∧ (State.powerOn u).rspValid = false ∧ (State.powerOn u).trace = [] ∧ (State.powerOn u).cmdReady = false
      ∧ (Checked.reset u).Inv ∧ ∀ u', (State.powerOn u).hideUnread = (State.powerOn u').hideUnread)
    ∧ (∃ u, State.reset = State.powerOn u)
    ∧ (∀ (c : Checked) (t : State) (e : Element), step c.state = .next t → e ∈ c.state.reads t → e ∈ c.unspecified →
      ∃ e', e' ∈ c.unspecified ∧ e' ∈ c.state.reads t ∧ c.step = .fault (.unspecifiedRead e'))
    ∧ (∀ c : Checked, c.Inv → (∀ e, c.step ≠ .fault (.unspecifiedRead e)) ∧ ∀ d, c.step = .next d → d.Inv)
    ∧ (∀ s s' : State, s.hideUnread = s'.hideUnread → hideOutcome (step s) = hideOutcome (step s'))

/-- LIFE only moves from UNCONFIGURED to CONFIGURED to TORN_DOWN, a command is accepted only in CONFIGURED (R22), CFG is written by INIT
only (R23), and no step changes a parameter (R9) or whose draws the bus takes (R19; the stream is the model's field, log entry 19). -/
def Obligations.LifecycleIsOneWay : Prop :=
  ∀ s t : State, step s = .next t →
    (s.life = .unconfigured → t.life = .unconfigured ∨ t.life = .configured)
    ∧ (s.life = .configured → t.life = .configured ∨ t.life = .tornDown)
    ∧ (s.life = .tornDown → t.life = .tornDown ∧ t.cmdReady = false)
    ∧ (s.guard = false → t.guard = true → s.life = .configured)
    ∧ (t.cfg ≠ s.cfg → s.life = .unconfigured ∧ t.life = .configured) ∧ t.params = s.params
    ∧ t.inputs.stream = s.inputs.stream

/-- TRACE is append-only (R36). -/
def Obligations.TraceIsAppendOnly : Prop :=
  ∀ s t : State, step s = .next t → ∃ es, t.trace = s.trace ++ es

/-- A line's driver changes only by a SET of the running command, or by INIT or TEARDOWN (R25, R34, R106). Outside CONFIGURED both lines
are released (the invariant's part on LIFE), so a second TEARDOWN changes none. -/
def Obligations.DriversChangeOnlyBySet : Prop :=
  ∀ (s t : State) (l : Line), s.LifeInv → step s = .next t → t.driver l ≠ s.driver l →
    (s.guard = true ∧ ∃ es, t.trace = s.trace ++ (.set l (t.driver l) :: es)) ∨ (s.guard = false ∧ t.life ≠ s.life)

/-- Who writes the data registers and the flag (R30, R31, R32): SHIFT by SEND's acceptance and RECV's samples, ACKREQ by RECV's
acceptance, ACKBIT by SEND's step at MPC 52. -/
def Obligations.WritersOfDataRegisters : Prop :=
  ∀ s t : State, step s = .next t →
    (t.shift ≠ s.shift →
      (s.guard = true ∧ s.op = .recv) ∨ (s.guard = false ∧ ∃ w b, s.port = some w ∧ decode w = .ok (.send b) ∧ t.shift = b))
    ∧ (t.ackReq ≠ s.ackReq → s.guard = false ∧ ∃ w k, s.port = some w ∧ decode w = .ok (.recv k) ∧ t.ackReq = k)
    ∧ (t.ackBit ≠ s.ackBit → s.guard = true ∧ s.op = .send ∧ s.mpc = 52#6)

/-- The response stays valid and unchanged until the next acceptance (R33, R76); INIT, which clears it, runs only in UNCONFIGURED. -/
def Obligations.ResponseHeldUntilNextAcceptance : Prop :=
  ∀ s t : State, s.EngineInv → s.life ≠ .unconfigured → s.rspValid = true → step s = .next t →
    (t.rspValid = true ∧ t.rspStatus = s.rspStatus ∧ t.rspData = s.rspData)
    ∨ (s.cmdReady = true ∧ ∃ w es, s.port = some w ∧ t.port = none ∧ t.trace = s.trace ++ (.accept w :: es))

/-- R200 with R22, R27 and R28: the numbers of the statuses (7 is never produced) as the port shows them and their categories; the
numbers of OP, LIFE and FSM_STATE. -/
def Obligations.CodesOfRegisters : Prop :=
  [Status.ok, .invalidArgument, .busError, .timeout, .outOfResources, .configurationError, .illegalCommand].map codeOfStatus =
      [0#3, 1#3, 2#3, 3#3, 4#3, 5#3, 6#3]
    ∧ (∀ st : Status, codeOfStatus st ≠ 7#3)
    ∧ [Status.ok, .invalidArgument, .busError, .timeout, .outOfResources, .configurationError, .illegalCommand].map categoryOf =
      [.none, .fatal, .retryable, .fatal, .fatal, .fatal, .fatal]
    ∧ (∀ s : State, s.ports.rspStatus = codeOfStatus s.rspStatus ∧ s.ports.fsmState = codeOfFsm s.fsm)
    ∧ [Op.start, .stop, .send, .recv].map codeOfOp = [0#2, 1#2, 2#2, 3#2]
    ∧ [Life.unconfigured, .configured, .tornDown].map codeOfLife = [0#2, 1#2, 2#2]
    ∧ [FsmState.idle, .startAsserted, .bitTransfer, .ackPhase, .stopAsserted].map codeOfFsm = [0#3, 1#3, 2#3, 3#3, 4#3]

/-- R201: which operation can return which status. -/
def Obligations.StatusesPerOperation : Prop :=
  (∀ s t : State, s.guard = true → step s = .next t → t.guard = false →
      (s.op = .send → t.rspStatus = .ok ∨ t.rspStatus = .busError) ∧ (s.op ≠ .send → t.rspStatus = .ok))
    ∧ (∀ (s : State) (w : Cmd), (s.acceptIllegal w).rspStatus = .illegalCommand)
    ∧ (∀ (s t : State) (a : Option (Nat × Nat × Nat)) (st : Status), s.init a = .next (t, st) →
      st = .ok ∨ st = .configurationError ∨ st = .outOfResources)
    ∧ (∀ (s t : State) (st : Status), s.teardown = .next (t, st) → st = .ok)
    ∧ (∀ (p : Params) (c : Call) (st r : Status) (d : Byte) (buf : Memory), Call.wf p c = true →
      c.onResponse st d = .returns r buf → r = .ok ∨ r = .busError ∨ r = .timeout)
    ∧ (∀ (s t : State) (k : Nat) (c : Caller) (bus : Bool) (dev : Option Device) (req : Option Request),
      s.callers[k]? = some c → s.beginTransfer k c bus dev req = .next t →
      ∀ c', t.callers[k]? = some c' → c'.call = none →
        c'.history = c.history ++ [.transferReturned .invalidArgument (bufferOf req)])

/-! ### Lifecycle (70_reset_and_hazards.md) -/

/-- R242: INIT, its checks in order, its failures without any effect on the engine, and its effect. -/
def Obligations.InitConfiguresBus : Prop :=
  ∀ s : State,
    (s.life ≠ .unconfigured → ∀ a, s.init a = .refused .initOutsideUnconfigured)
    ∧ (s.life = .unconfigured →
      s.init none = .next (s, .configurationError)
      ∧ (∀ scl sda rate : Nat, rate = 0 ∨ scl = sda → s.init (some (scl, sda, rate)) = .next (s, .configurationError))
      ∧ ∀ scl sda rate : Nat, scl < 2 ^ s.params.pinW → sda < 2 ^ s.params.pinW → rate < 2 ^ s.params.rateW →
        rate ≠ 0 → scl ≠ sda →
        (s.inputs.nextAllocFails = true →
          ∃ x, s.init (some (scl, sda, rate)) = .next ({ s with inputs := x }, .outOfResources)
            ∧ x.env = s.inputs.env ∧ x.elapsed = s.inputs.elapsed ∧ x.grant = s.inputs.grant ∧ x.stream = s.inputs.stream)
        ∧ (s.inputs.nextAllocFails = false →
          ∃ t, s.init (some (scl, sda, rate)) = .next (t, .ok)
            ∧ t.cfg = { sclPin := scl, sdaPin := sda, clockRate := rate }
            ∧ t.trace = s.trace ++ ([.configure .scl, .configure .sda, .set .scl true, .set .sda true] : List Event)
            ∧ t.sclOut = true ∧ t.sdaOut = true ∧ t.sclMode = .openDrain ∧ t.sdaMode = .openDrain
            ∧ t.guard = false ∧ t.fsm = .idle ∧ t.rspValid = false ∧ t.life = .configured
            ∧ t.op = s.op ∧ t.mpc = s.mpc ∧ t.shift = s.shift ∧ t.ackReq = s.ackReq ∧ t.ackBit = s.ackBit
            ∧ t.rspStatus = s.rspStatus ∧ t.rspData = s.rspData ∧ t.callers = s.callers ∧ t.port = s.port
            ∧ t.owner = s.owner ∧ t.env = s.env ∧ t.params = s.params
            ∧ t.inputs.env = s.inputs.env ∧ t.inputs.elapsed = s.inputs.elapsed ∧ t.inputs.grant = s.inputs.grant
            ∧ t.inputs.stream = s.inputs.stream))

/-- TEARDOWN, after R245's pseudocode. It checks LIFE and is refused outside CONFIGURED; then it waits for GUARD = 0; then it is OK, releases SCL and then
SDA, and issues no STOP. What it does then does not depend on another TEARDOWN carried out while it waited. That the
check is a step of its own, so that another TEARDOWN can come between it and the effect, is the model's choice (log entry 23). -/
def Obligations.TeardownReleasesBus : Prop :=
  (∀ (s : State) (k : Nat) (c : Caller) (rest : List HostOp), s.callers[k]? = some c → c.call = none → c.pending = .teardown :: rest →
      (c.tearingDown = false → s.life ≠ .configured → s.callerStep k = .refused .teardownOutsideConfigured)
      ∧ (c.tearingDown = false → s.life = .configured → s.callerStep k = .next (s.setCaller k { c with tearingDown := true }))
      ∧ (c.tearingDown = true → s.owner ≠ some k → (s.canMove k c = true ↔ s.guard = false)))
    ∧ (∀ s : State, s.life ≠ .unconfigured →
      ∃ t, s.teardown = .next (t, .ok) ∧ t.life = .tornDown
        ∧ t.trace = s.trace ++ ([.set .scl true, .set .sda true] : List Event) ∧ t.sclOut = true ∧ t.sdaOut = true
        ∧ t.sclMode = .highImpedance ∧ t.sdaMode = .highImpedance ∧ t.cmdReady = false
        ∧ t.cfg = s.cfg ∧ t.guard = s.guard ∧ t.fsm = s.fsm ∧ t.op = s.op ∧ t.mpc = s.mpc ∧ t.shift = s.shift
        ∧ t.ackReq = s.ackReq ∧ t.ackBit = s.ackBit ∧ t.rspValid = s.rspValid ∧ t.rspStatus = s.rspStatus
        ∧ t.rspData = s.rspData ∧ t.callers = s.callers ∧ t.port = s.port ∧ t.owner = s.owner
        ∧ t.env = s.env ∧ t.params = s.params ∧ t.inputs = s.inputs
        ∧ (∀ a, t.init a = .refused .initOutsideUnconfigured)
        ∧ (∀ u, step t = .next u → u.life = .tornDown ∧ u.cmdReady = false))
    ∧ (∀ s t : State, s.guard = true → step s = .next t → t.life = s.life)

/-- A caller whose next operation is INIT runs it in one host step, when it is the one that can move and GUARD = 0 (R241, R59), and gets
its status; one whose next operation is TEARDOWN makes its check in one step and carries it out in another (R245). Values too wide for
their fields fail INIT like R23's other illegal values. That these are steps of the machine and that too wide a value counts as illegal
are the model's choices (log entries 1, 11 and 23). -/
def Obligations.CallerRunsLifecycle : Prop :=
  ∀ (s t : State) (c : Caller) (st : Status) (rest : List HostOp),
    s.callers = [c] → c.call = none → s.owner = none → s.port = none → s.guard = false →
    (∀ a, c.pending = .init a :: rest → s.init a = .next (t, st) →
      step s = .next { t with callers := [{ c with todo := rest, history := c.history ++ [.initReturned st] }] })
    ∧ (c.pending = .teardown :: rest → c.tearingDown = false → s.life = .configured →
      step s = .next { s with callers := [{ c with tearingDown := true }] })
    ∧ (c.pending = .teardown :: rest → c.tearingDown = true → s.teardown = .next (t, st) →
      step s = .next
        { t with callers := [{ c with todo := rest, tearingDown := false, history := c.history ++ [.teardownReturned st] }] })
    ∧ (∀ scl sda rate, s.life = .unconfigured → c.pending = .init (some (scl, sda, rate)) :: rest →
      (2 ^ s.params.pinW ≤ scl ∨ 2 ^ s.params.pinW ≤ sda ∨ 2 ^ s.params.rateW ≤ rate) →
      step s = .next { s with callers := [{ c with todo := rest, history := c.history ++ [.initReturned .configurationError] }] })

/-! ### The reference host sequence (45_transfer_sequencer.md) -/

/-- R162 with R163: validation, before any other step; no command, no time reading and no buffer access. -/
def Obligations.TransferValidation : Prop :=
  ∀ (s : State) (k : Nat) (c : Caller) (bus : Bool) (dev : Option Device) (req : Option Request) (rest : List HostOp),
    s.callers[k]? = some c → c.call = none → c.pending = .transfer bus dev req :: rest →
    ((bus = false ∨ dev = none ∨ req = none ∨ ∃ r, req = some r ∧ r.len = 0) →
      s.callerStep k =
        .next (s.setCaller k
          { c with todo := rest, history := c.history ++ [.transferReturned .invalidArgument (bufferOf req)] }))
    ∧ (∀ d r, bus = true → dev = some d → req = some r → r.len ≠ 0 → d.dir ≠ r.dir →
      s.callerStep k = .refused .directionMismatch)
    ∧ (∀ d r, bus = true → dev = some d → req = some r → r.len ≠ 0 → d.dir = r.dir → r.len ≤ s.params.maxLen →
      ∃ t : Call, s.callerStep k = .next (s.setCaller k { c with todo := rest, call := some t })
        ∧ t.addr7 = d.addr7 ∧ t.dir = r.dir ∧ t.len = r.len ∧ t.buf = r.buf ∧ t.attempt = 1 ∧ t.last = .busError
        ∧ t.point = .readT0)

/-- R167: the address phase is one SEND of the address byte; a NACK leads to one STOP and ends the attempt with BUS_ERROR; no deadline
check is made in it. -/
def Obligations.TransferAddressPhase : Prop :=
  ∀ (c : Call) (d : Byte), c.point = .issueAddr →
    c.command = .send ((c.addr7.setWidth 8 <<< 1) ||| (if c.dir = .read then 1#8 else 0#8))
    ∧ c.onResponse .busError d = .goes { c with point := .issueStop .addrNack }
    ∧ c.onResponse .ok d = .goes { c with st := .ok, idx := 0, point := .check }
    ∧ ({ c with point := .issueStop .addrNack } : Call).command = .stop
    ∧ (∀ st, c.attempt < 3 →
        ({ c with point := .issueStop .addrNack } : Call).onResponse st d = .goes { c with last := .busError, point := .backoff })
    ∧ ({ c with last := .busError, point := .backoff } : Call).afterBackoff =
        { c with last := .busError, attempt := c.attempt + 1, point := .readT0 }
    ∧ (∀ st, 3 ≤ c.attempt → ∃ buf, ({ c with point := .issueStop .addrNack } : Call).onResponse st d = .returns .busError buf)

/-- R168 and R169: the payload loop. A write sends `buf[I]` and a NACK ends the loop with BUS_ERROR; a read requests ACK for every
byte but the last and stores what it gets; the last byte leads to STOP. -/
def Obligations.TransferPayloadLoop : Prop :=
  ∀ (c : Call) (d : Byte), c.point = .issuePayload → c.idx < c.len →
    (c.dir = .write →
      c.command = .send (Memory.read c.buf c.idx)
      ∧ c.onResponse .busError d = .goes { c with st := .busError, point := .issueStop .payloadDone }
      ∧ c.onResponse .ok d =
          .goes (if c.idx = c.len - 1 then { c with point := .issueStop .payloadDone }
            else { c with idx := c.idx + 1, point := .check }))
    ∧ (c.dir = .read →
      c.command = .recv (decide (c.idx < c.len - 1))
      ∧ ∀ st, c.onResponse st d =
          .goes (if c.idx = c.len - 1 then { c with buf := Memory.write c.buf c.idx d, point := .issueStop .payloadDone }
            else { c with buf := Memory.write c.buf c.idx d, idx := c.idx + 1, point := .check }))

/-- R164 and R170: an attempt opens with one reading of NOW(), which becomes T0, and then START. R170 and R171: the deadline check before
a payload byte, strict, against the attempt's own T0; past it one STOP is issued and TIMEOUT returned at once, whatever budget remains.
Nothing is said of the buffer then (R175). -/
def Obligations.TransferDeadline : Prop :=
  ∀ (s : State) (k : Nat) (c : Caller) (t : Call), t.point = .readT0 ∨ t.point = .check → s.callers[k]? = some c → c.call = some t →
    ∃ u c' t', s.callerStep k = .next u ∧ u.callers[k]? = some c' ∧ c'.call = some t' ∧ c'.clock = s.nextNow c
      ∧ c'.history = c.history ++ [.now (s.nextNow c)] ∧ s.SameEngine u
      ∧ (t.point = .readT0 →
          t' = { t with t0 := s.nextNow c, point := .issueStart } ∧ t'.command = .start
          ∧ ∀ st d, t'.onResponse st d = .goes { t with t0 := s.nextNow c, point := .issueAddr })
      ∧ (t.point = .check → s.nextNow c - t.t0 > 1000000 →
          t' = { t with point := .issueStop .deadline } ∧ t'.command = .stop
          ∧ ∀ st d, ∃ buf, t'.onResponse st d = .returns .timeout buf)
      ∧ (t.point = .check → ¬ s.nextNow c - t.t0 > 1000000 → t' = { t with point := .issuePayload })

/-- R172, R173 and R174: after its STOP a successful attempt returns OK at once; one failed in its payload or by its address's NACK
backs off for 1,000 us only if another attempt follows, and the third failure returns LAST. -/
def Obligations.TransferRetries : Prop :=
  ∀ (c : Call) (st : Status) (d : Byte),
    (c.point = .issueStop .payloadDone →
      c.command = .stop
      ∧ (c.st = .ok → c.onResponse st d = .returns .ok c.buf)
      ∧ (c.st ≠ .ok → c.attempt < 3 → c.onResponse st d = .goes { c with last := c.st, point := .backoff })
      ∧ (c.st ≠ .ok → 3 ≤ c.attempt → ∃ buf, c.onResponse st d = .returns c.st buf))
    ∧ (c.point = .issueStop .addrNack →
      c.command = .stop
      ∧ (c.attempt < 3 → c.onResponse st d = .goes { c with last := .busError, point := .backoff })
      ∧ (3 ≤ c.attempt → ∃ buf, c.onResponse st d = .returns .busError buf))
    ∧ (c.point = .backoff →
      ∀ (s : State) (k : Nat) (x : Caller), s.callers[k]? = some x → x.call = some c →
        ∃ u x', s.callerStep k = .next u ∧ u.callers[k]? = some x' ∧ s.SameEngine u ∧ x'.clock = x.clock
          ∧ x'.history = x.history ++ [.waitUs 1000]
          ∧ x'.call = some { c with attempt := c.attempt + 1, point := .readT0 })

/-- R165: a write never writes the buffer, a read writes only `buf[I]`, once per received byte, and every index used lies in
0 .. n-1. -/
def Obligations.TransferBufferAccesses : Prop :=
  ∀ (p : Params) (c t : Call) (st : Status) (d : Byte), Call.wf p c = true → c.onResponse st d = .goes t →
    c.indexOk = true ∧ t.idx < t.len ∧ t.len = c.len
    ∧ (c.dir = .write → t.buf = c.buf)
    ∧ (c.point ≠ .issuePayload → t.buf = c.buf)
    ∧ (c.dir = .read → c.point = .issuePayload → Memory.read t.buf c.idx = d)
    ∧ (∀ i, i ≠ c.idx → Memory.read t.buf i = Memory.read c.buf i)

/-- R180: TRANSFER issues at most RETRY_BUDGET × (3 + n) commands: the commands left start at that number, each response leaves fewer,
and no step between two commands leaves more. -/
def Obligations.TransferCommandsAreBounded : Prop :=
  (∀ (d : Device) (r : Request), (Call.begin d r).commandsLeft = 3 * (3 + r.len))
    ∧ (∀ (p : Params) (c t : Call) (st : Status) (d : Byte), Call.wf p c = true → c.point.issues = true →
      c.onResponse st d = .goes t → t.commandsLeft < c.commandsLeft)
    ∧ (∀ (p : Params) (c : Call) (now : Nat), Call.wf p c = true →
      (c.onNow now).commandsLeft ≤ c.commandsLeft ∧ (c.point = .backoff → c.afterBackoff.commandsLeft ≤ c.commandsLeft))

/-- A lone caller in a TRANSFER issues its command, the engine runs it to completion, and the caller gets that command's own response
(R76, R164, R209): the present step, the engine's steps, and the collecting step. That presenting and collecting are steps of their own
is the model's choice (log entries 1 and 7). -/
def Obligations.CommandRoundTrip : Prop :=
  ∀ (s : State) (c : Caller) (t : Call), s.life = .configured → s.guard = false → s.port = none → s.owner = none →
    s.callers = [c] → c.call = some t → t.point.issues = true → t.indexOk = true →
    ∃ u st d c', run (engineSteps t.command + 2) s = .next u
      ∧ u.callers = [c'] ∧ (c.note (t.readEvents ++ [.issued (encode t.command)])).onResponse st d = .next c'
      ∧ st = u.rspStatus ∧ d = u.rspData ∧ u.rspValid = true
      ∧ u.op = opOf t.command ∧ u.owner = none ∧ u.port = none ∧ u.guard = false ∧ u.life = .configured
      ∧ (t.command = .start ∨ t.command = .stop → st = .ok ∧ d = 0x00#8)
      ∧ (∀ b, t.command = .send b → st = (if u.ackBit then .busError else .ok) ∧ d = 0x00#8)
      ∧ (∀ k, t.command = .recv k → st = .ok ∧ d = u.shift)

/-- R220: NOW() is monotonic for each caller, in every step of the machine. -/
def Obligations.NowIsMonotonic : Prop :=
  ∀ (s t : State) (k : Nat) (c : Caller), step s = .next t → s.callers[k]? = some c →
    ∃ c', t.callers[k]? = some c' ∧ c.clock ≤ c'.clock
      ∧ (∀ n, c'.history = c.history ++ [.now n] → c.clock ≤ n ∧ c'.clock = n)

/-- Of several callers that can move, any one of them may be next: the order is free (R229). A waiting caller may be passed over for any
number of steps while another keeps taking the guard (R231, U17). That the choice is a draw of the model's inputs is the model's choice
(log entries 4 and 7), and so is how a caller goes on for ever (log entry 24). -/
def Obligations.AnyWaitingCallerMayMove : Prop :=
  (∀ (s : State) (k : Nat), s.owner = none → k ∈ s.movers → 2 ≤ s.movers.length →
      ∃ n, hostStep { s with inputs := { s.inputs with grant := n :: s.inputs.grant } } = s.callerStep k)
    ∧ (∀ (s : State) (r c : Caller) (w : Cmd) (n : Nat), s.life = .configured → s.guard = false → s.port = none → s.owner = none →
      s.callers = [r, c] → r.call = none → r.todo = [] → r.again = [.issue w] → c.wantsBus = true →
      ∃ t, run n { s with inputs := { s.inputs with grant := List.replicate n 0 ++ s.inputs.grant } } = .next t
        ∧ t.callers[1]? = some c)

/-- A response goes to the caller whose command it answers (R76, R209); the other callers are untouched. No response is lost: whichever
agent moves, the command and its response stay that caller's until it collects it. That it is collected before any other command is
presented is the model's choice (log entry 7). -/
def Obligations.ResponseGoesToItsCaller : Prop :=
  (∀ (s : State) (k : Nat) (c c' : Caller), s.life = .configured → s.guard = false → s.port = none → s.owner = some k →
      s.rspValid = true → s.callers[k]? = some c → c.onResponse s.rspStatus s.rspData = .next c' →
      step s = .next { s with callers := s.callers.set k c', owner := none })
    ∧ (∀ (s t : State) (k : Nat) (a : Agent), s.owner = some k → s.agentStep a = .next t →
      t.owner = some k
      ∨ (a = .caller k ∧ t.owner = none ∧ s.rspValid = true
        ∧ ∀ c, s.callers[k]? = some c →
          ∃ c', c.onResponse s.rspStatus s.rspData = .next c' ∧ t.callers = s.callers.set k c'))

/-- R62 with R19: buses are independent; a step of one changes no other nor the number of buses, and steps of two buses commute. -/
def Obligations.BusesAreIndependent : Prop :=
  (∀ (y z : System) (n m : Nat), y.stepBus n = .next z →
      z.buses.length = y.buses.length ∧ (m ≠ n → z.buses[m]? = y.buses[m]?))
    ∧ (∀ (y a b : System) (n m : Nat), n ≠ m → y.stepBus n = .next a → y.stepBus m = .next b →
      ∃ z, a.stepBus m = .next z ∧ b.stepBus n = .next z)

/-! ### Timing and hazards (70_reset_and_hazards.md) -/

/-- R10 and R275: T_HALF exactly, and the DELAYs of each command and of a TRANSFER attempt (R276). -/
def Obligations.HalfBitDelays : Prop :=
  (∀ r : Nat, 0 < r → tHalf r * (2 * (r : ℚ)) = 1000000)
    ∧ [Op.start, .stop, .send, .recv].map delaysOf = [4, 3, 27, 19]
    ∧ (∀ n : Nat, attemptDelays .write n = 34 + 27 * n ∧ attemptDelays .read n = 34 + 19 * n)
    ∧ (∀ i : Nat, checkDelays .write i = 31 + 27 * i ∧ checkDelays .read i = 31 + 19 * i)

/-- The wire effects of the hazards (R262, R263, R268) and of START and STOP with a device holding a line (R124, R127), computed from
the commands' own events. The environment's drive is held constant over the events looked at (log entry 13). -/
def Obligations.HazardsOnTheWire : Prop :=
  (∀ b : Byte, b.getLsbD 7 = false →
      (conditionsOf noDevice ⟨true, true⟩ (traceOf b false sendTable [true])).head? = some .start)
    ∧ (∀ b : Byte, b.getLsbD 7 = true →
      sclRisesOf noDevice ⟨true, true⟩ (traceOf b false sendTable [true]) = 8
      ∧ (conditionsOf noDevice ⟨true, false⟩ (traceOf b false sendTable [true])).head? = some .stop)
    ∧ (∀ (o a : Bool) (vs : List Bool), sclRisesOf noDevice ⟨true, o⟩ (traceOf 0#8 a recvTable vs) = 8)
    ∧ (∀ (o a : Bool) (vs : List Bool), sclRisesOf noDevice ⟨false, o⟩ (traceOf 0#8 a recvTable vs) = 9)
    ∧ conditionsOf noDevice ⟨true, true⟩ (traceOf 0#8 false stopTable []) = [.start, .stop]
    ∧ conditionsOf noDevice ⟨false, false⟩ [.set .scl true, .set .sda true] = [.stop]
    ∧ conditionsOf noDevice ⟨false, true⟩ [.set .scl true, .set .sda true] = []
    ∧ conditionsOf ⟨true, false⟩ ⟨true, true⟩ (traceOf 0#8 false startTable []) = []
    ∧ conditionsOf ⟨false, true⟩ ⟨false, true⟩ (traceOf 0#8 false stopTable []) = []
end

