-- ==== Sys2Proof/Laws/State.lean ====
section
/-! SUPPORT. The state updates, field by field: one lemma per field per update. -/

namespace Sys2Proof.Machine

/-! ### `State.record` -/

@[simp] theorem State.record_life (s : State) (e : Event) : (s.record e).life = s.life := rfl
@[simp] theorem State.record_cfg (s : State) (e : Event) : (s.record e).cfg = s.cfg := rfl
@[simp] theorem State.record_guard (s : State) (e : Event) : (s.record e).guard = s.guard := rfl
@[simp] theorem State.record_fsm (s : State) (e : Event) : (s.record e).fsm = s.fsm := rfl
@[simp] theorem State.record_op (s : State) (e : Event) : (s.record e).op = s.op := rfl
@[simp] theorem State.record_mpc (s : State) (e : Event) : (s.record e).mpc = s.mpc := rfl
@[simp] theorem State.record_shift (s : State) (e : Event) : (s.record e).shift = s.shift := rfl
@[simp] theorem State.record_ackReq (s : State) (e : Event) : (s.record e).ackReq = s.ackReq := rfl
@[simp] theorem State.record_ackBit (s : State) (e : Event) : (s.record e).ackBit = s.ackBit := rfl
@[simp] theorem State.record_sclOut (s : State) (e : Event) : (s.record e).sclOut = s.sclOut := rfl
@[simp] theorem State.record_sdaOut (s : State) (e : Event) : (s.record e).sdaOut = s.sdaOut := rfl
@[simp] theorem State.record_sclMode (s : State) (e : Event) : (s.record e).sclMode = s.sclMode := rfl
@[simp] theorem State.record_sdaMode (s : State) (e : Event) : (s.record e).sdaMode = s.sdaMode := rfl
@[simp] theorem State.record_rspValid (s : State) (e : Event) : (s.record e).rspValid = s.rspValid := rfl
@[simp] theorem State.record_rspStatus (s : State) (e : Event) : (s.record e).rspStatus = s.rspStatus := rfl
@[simp] theorem State.record_rspData (s : State) (e : Event) : (s.record e).rspData = s.rspData := rfl
@[simp] theorem State.record_trace (s : State) (e : Event) : (s.record e).trace = s.trace ++ [e] := rfl
@[simp] theorem State.record_env (s : State) (e : Event) : (s.record e).env = s.env := rfl
@[simp] theorem State.record_inputs (s : State) (e : Event) : (s.record e).inputs = s.inputs := rfl
@[simp] theorem State.record_port (s : State) (e : Event) : (s.record e).port = s.port := rfl
@[simp] theorem State.record_owner (s : State) (e : Event) : (s.record e).owner = s.owner := rfl
@[simp] theorem State.record_callers (s : State) (e : Event) : (s.record e).callers = s.callers := rfl
@[simp] theorem State.record_params (s : State) (e : Event) : (s.record e).params = s.params := rfl

/-! ### `State.drive` -/

@[simp] theorem State.drive_life (s : State) (l : Line) (v : Bool) : (s.drive l v).life = s.life := by
  cases l <;> rfl
@[simp] theorem State.drive_cfg (s : State) (l : Line) (v : Bool) : (s.drive l v).cfg = s.cfg := by
  cases l <;> rfl
@[simp] theorem State.drive_guard (s : State) (l : Line) (v : Bool) : (s.drive l v).guard = s.guard := by
  cases l <;> rfl
@[simp] theorem State.drive_fsm (s : State) (l : Line) (v : Bool) : (s.drive l v).fsm = s.fsm := by
  cases l <;> rfl
@[simp] theorem State.drive_op (s : State) (l : Line) (v : Bool) : (s.drive l v).op = s.op := by
  cases l <;> rfl
@[simp] theorem State.drive_mpc (s : State) (l : Line) (v : Bool) : (s.drive l v).mpc = s.mpc := by
  cases l <;> rfl
@[simp] theorem State.drive_shift (s : State) (l : Line) (v : Bool) : (s.drive l v).shift = s.shift := by
  cases l <;> rfl
@[simp] theorem State.drive_ackReq (s : State) (l : Line) (v : Bool) : (s.drive l v).ackReq = s.ackReq := by
  cases l <;> rfl
@[simp] theorem State.drive_ackBit (s : State) (l : Line) (v : Bool) : (s.drive l v).ackBit = s.ackBit := by
  cases l <;> rfl
@[simp] theorem State.drive_sclMode (s : State) (l : Line) (v : Bool) : (s.drive l v).sclMode = s.sclMode := by
  cases l <;> rfl
@[simp] theorem State.drive_sdaMode (s : State) (l : Line) (v : Bool) : (s.drive l v).sdaMode = s.sdaMode := by
  cases l <;> rfl
@[simp] theorem State.drive_rspValid (s : State) (l : Line) (v : Bool) : (s.drive l v).rspValid = s.rspValid := by
  cases l <;> rfl
@[simp] theorem State.drive_rspStatus (s : State) (l : Line) (v : Bool) : (s.drive l v).rspStatus = s.rspStatus := by
  cases l <;> rfl
@[simp] theorem State.drive_rspData (s : State) (l : Line) (v : Bool) : (s.drive l v).rspData = s.rspData := by
  cases l <;> rfl
@[simp] theorem State.drive_trace (s : State) (l : Line) (v : Bool) : (s.drive l v).trace = s.trace := by
  cases l <;> rfl
@[simp] theorem State.drive_env (s : State) (l : Line) (v : Bool) : (s.drive l v).env = s.env := by
  cases l <;> rfl
@[simp] theorem State.drive_inputs (s : State) (l : Line) (v : Bool) : (s.drive l v).inputs = s.inputs := by
  cases l <;> rfl
@[simp] theorem State.drive_port (s : State) (l : Line) (v : Bool) : (s.drive l v).port = s.port := by
  cases l <;> rfl
@[simp] theorem State.drive_owner (s : State) (l : Line) (v : Bool) : (s.drive l v).owner = s.owner := by
  cases l <;> rfl
@[simp] theorem State.drive_callers (s : State) (l : Line) (v : Bool) : (s.drive l v).callers = s.callers := by
  cases l <;> rfl
@[simp] theorem State.drive_params (s : State) (l : Line) (v : Bool) : (s.drive l v).params = s.params := by
  cases l <;> rfl
@[simp] theorem State.drive_scl_sclOut (s : State) (v : Bool) : (s.drive .scl v).sclOut = v := rfl
@[simp] theorem State.drive_scl_sdaOut (s : State) (v : Bool) : (s.drive .scl v).sdaOut = s.sdaOut := rfl
@[simp] theorem State.drive_sda_sdaOut (s : State) (v : Bool) : (s.drive .sda v).sdaOut = v := rfl
@[simp] theorem State.drive_sda_sclOut (s : State) (v : Bool) : (s.drive .sda v).sclOut = s.sclOut := rfl

/-! ### `State.advanceMpc` -/

@[simp] theorem State.advanceMpc_life (s : State) : (s.advanceMpc).life = s.life := rfl
@[simp] theorem State.advanceMpc_cfg (s : State) : (s.advanceMpc).cfg = s.cfg := rfl
@[simp] theorem State.advanceMpc_guard (s : State) : (s.advanceMpc).guard = s.guard := rfl
@[simp] theorem State.advanceMpc_fsm (s : State) : (s.advanceMpc).fsm = s.fsm := rfl
@[simp] theorem State.advanceMpc_op (s : State) : (s.advanceMpc).op = s.op := rfl
@[simp] theorem State.advanceMpc_mpc (s : State) : (s.advanceMpc).mpc = s.mpc + 1#6 := rfl
@[simp] theorem State.advanceMpc_shift (s : State) : (s.advanceMpc).shift = s.shift := rfl
@[simp] theorem State.advanceMpc_ackReq (s : State) : (s.advanceMpc).ackReq = s.ackReq := rfl
@[simp] theorem State.advanceMpc_ackBit (s : State) : (s.advanceMpc).ackBit = s.ackBit := rfl
@[simp] theorem State.advanceMpc_sclOut (s : State) : (s.advanceMpc).sclOut = s.sclOut := rfl
@[simp] theorem State.advanceMpc_sdaOut (s : State) : (s.advanceMpc).sdaOut = s.sdaOut := rfl
@[simp] theorem State.advanceMpc_sclMode (s : State) : (s.advanceMpc).sclMode = s.sclMode := rfl
@[simp] theorem State.advanceMpc_sdaMode (s : State) : (s.advanceMpc).sdaMode = s.sdaMode := rfl
@[simp] theorem State.advanceMpc_rspValid (s : State) : (s.advanceMpc).rspValid = s.rspValid := rfl
@[simp] theorem State.advanceMpc_rspStatus (s : State) : (s.advanceMpc).rspStatus = s.rspStatus := rfl
@[simp] theorem State.advanceMpc_rspData (s : State) : (s.advanceMpc).rspData = s.rspData := rfl
@[simp] theorem State.advanceMpc_trace (s : State) : (s.advanceMpc).trace = s.trace := rfl
@[simp] theorem State.advanceMpc_env (s : State) : (s.advanceMpc).env = s.env := rfl
@[simp] theorem State.advanceMpc_inputs (s : State) : (s.advanceMpc).inputs = s.inputs := rfl
@[simp] theorem State.advanceMpc_port (s : State) : (s.advanceMpc).port = s.port := rfl
@[simp] theorem State.advanceMpc_owner (s : State) : (s.advanceMpc).owner = s.owner := rfl
@[simp] theorem State.advanceMpc_callers (s : State) : (s.advanceMpc).callers = s.callers := rfl
@[simp] theorem State.advanceMpc_params (s : State) : (s.advanceMpc).params = s.params := rfl

/-! ### `State.putFsm` -/

@[simp] theorem State.putFsm_life (s : State) (f : FsmState) : (s.putFsm f).life = s.life := rfl
@[simp] theorem State.putFsm_cfg (s : State) (f : FsmState) : (s.putFsm f).cfg = s.cfg := rfl
@[simp] theorem State.putFsm_guard (s : State) (f : FsmState) : (s.putFsm f).guard = s.guard := rfl
@[simp] theorem State.putFsm_fsm (s : State) (f : FsmState) : (s.putFsm f).fsm = f := rfl
@[simp] theorem State.putFsm_op (s : State) (f : FsmState) : (s.putFsm f).op = s.op := rfl
@[simp] theorem State.putFsm_mpc (s : State) (f : FsmState) : (s.putFsm f).mpc = s.mpc := rfl
@[simp] theorem State.putFsm_shift (s : State) (f : FsmState) : (s.putFsm f).shift = s.shift := rfl
@[simp] theorem State.putFsm_ackReq (s : State) (f : FsmState) : (s.putFsm f).ackReq = s.ackReq := rfl
@[simp] theorem State.putFsm_ackBit (s : State) (f : FsmState) : (s.putFsm f).ackBit = s.ackBit := rfl
@[simp] theorem State.putFsm_sclOut (s : State) (f : FsmState) : (s.putFsm f).sclOut = s.sclOut := rfl
@[simp] theorem State.putFsm_sdaOut (s : State) (f : FsmState) : (s.putFsm f).sdaOut = s.sdaOut := rfl
@[simp] theorem State.putFsm_sclMode (s : State) (f : FsmState) : (s.putFsm f).sclMode = s.sclMode := rfl
@[simp] theorem State.putFsm_sdaMode (s : State) (f : FsmState) : (s.putFsm f).sdaMode = s.sdaMode := rfl
@[simp] theorem State.putFsm_rspValid (s : State) (f : FsmState) : (s.putFsm f).rspValid = s.rspValid := rfl
@[simp] theorem State.putFsm_rspStatus (s : State) (f : FsmState) : (s.putFsm f).rspStatus = s.rspStatus := rfl
@[simp] theorem State.putFsm_rspData (s : State) (f : FsmState) : (s.putFsm f).rspData = s.rspData := rfl
@[simp] theorem State.putFsm_trace (s : State) (f : FsmState) : (s.putFsm f).trace = s.trace := rfl
@[simp] theorem State.putFsm_env (s : State) (f : FsmState) : (s.putFsm f).env = s.env := rfl
@[simp] theorem State.putFsm_inputs (s : State) (f : FsmState) : (s.putFsm f).inputs = s.inputs := rfl
@[simp] theorem State.putFsm_port (s : State) (f : FsmState) : (s.putFsm f).port = s.port := rfl
@[simp] theorem State.putFsm_owner (s : State) (f : FsmState) : (s.putFsm f).owner = s.owner := rfl
@[simp] theorem State.putFsm_callers (s : State) (f : FsmState) : (s.putFsm f).callers = s.callers := rfl
@[simp] theorem State.putFsm_params (s : State) (f : FsmState) : (s.putFsm f).params = s.params := rfl

/-! ### `State.putAckBit` -/

@[simp] theorem State.putAckBit_life (s : State) (v : Bool) : (s.putAckBit v).life = s.life := rfl
@[simp] theorem State.putAckBit_cfg (s : State) (v : Bool) : (s.putAckBit v).cfg = s.cfg := rfl
@[simp] theorem State.putAckBit_guard (s : State) (v : Bool) : (s.putAckBit v).guard = s.guard := rfl
@[simp] theorem State.putAckBit_fsm (s : State) (v : Bool) : (s.putAckBit v).fsm = s.fsm := rfl
@[simp] theorem State.putAckBit_op (s : State) (v : Bool) : (s.putAckBit v).op = s.op := rfl
@[simp] theorem State.putAckBit_mpc (s : State) (v : Bool) : (s.putAckBit v).mpc = s.mpc := rfl
@[simp] theorem State.putAckBit_shift (s : State) (v : Bool) : (s.putAckBit v).shift = s.shift := rfl
@[simp] theorem State.putAckBit_ackReq (s : State) (v : Bool) : (s.putAckBit v).ackReq = s.ackReq := rfl
@[simp] theorem State.putAckBit_ackBit (s : State) (v : Bool) : (s.putAckBit v).ackBit = v := rfl
@[simp] theorem State.putAckBit_sclOut (s : State) (v : Bool) : (s.putAckBit v).sclOut = s.sclOut := rfl
@[simp] theorem State.putAckBit_sdaOut (s : State) (v : Bool) : (s.putAckBit v).sdaOut = s.sdaOut := rfl
@[simp] theorem State.putAckBit_sclMode (s : State) (v : Bool) : (s.putAckBit v).sclMode = s.sclMode := rfl
@[simp] theorem State.putAckBit_sdaMode (s : State) (v : Bool) : (s.putAckBit v).sdaMode = s.sdaMode := rfl
@[simp] theorem State.putAckBit_rspValid (s : State) (v : Bool) : (s.putAckBit v).rspValid = s.rspValid := rfl
@[simp] theorem State.putAckBit_rspStatus (s : State) (v : Bool) : (s.putAckBit v).rspStatus = s.rspStatus := rfl
@[simp] theorem State.putAckBit_rspData (s : State) (v : Bool) : (s.putAckBit v).rspData = s.rspData := rfl
@[simp] theorem State.putAckBit_trace (s : State) (v : Bool) : (s.putAckBit v).trace = s.trace := rfl
@[simp] theorem State.putAckBit_env (s : State) (v : Bool) : (s.putAckBit v).env = s.env := rfl
@[simp] theorem State.putAckBit_inputs (s : State) (v : Bool) : (s.putAckBit v).inputs = s.inputs := rfl
@[simp] theorem State.putAckBit_port (s : State) (v : Bool) : (s.putAckBit v).port = s.port := rfl
@[simp] theorem State.putAckBit_owner (s : State) (v : Bool) : (s.putAckBit v).owner = s.owner := rfl
@[simp] theorem State.putAckBit_callers (s : State) (v : Bool) : (s.putAckBit v).callers = s.callers := rfl
@[simp] theorem State.putAckBit_params (s : State) (v : Bool) : (s.putAckBit v).params = s.params := rfl

/-! ### `State.putShiftBit` -/

@[simp] theorem State.putShiftBit_life (s : State) (k : Fin 8) (v : Bool) : (s.putShiftBit k v).life = s.life := rfl
@[simp] theorem State.putShiftBit_cfg (s : State) (k : Fin 8) (v : Bool) : (s.putShiftBit k v).cfg = s.cfg := rfl
@[simp] theorem State.putShiftBit_guard (s : State) (k : Fin 8) (v : Bool) : (s.putShiftBit k v).guard = s.guard := rfl
@[simp] theorem State.putShiftBit_fsm (s : State) (k : Fin 8) (v : Bool) : (s.putShiftBit k v).fsm = s.fsm := rfl
@[simp] theorem State.putShiftBit_op (s : State) (k : Fin 8) (v : Bool) : (s.putShiftBit k v).op = s.op := rfl
@[simp] theorem State.putShiftBit_mpc (s : State) (k : Fin 8) (v : Bool) : (s.putShiftBit k v).mpc = s.mpc := rfl
@[simp] theorem State.putShiftBit_shift (s : State) (k : Fin 8) (v : Bool) : (s.putShiftBit k v).shift = setBit s.shift k v := rfl
@[simp] theorem State.putShiftBit_ackReq (s : State) (k : Fin 8) (v : Bool) : (s.putShiftBit k v).ackReq = s.ackReq := rfl
@[simp] theorem State.putShiftBit_ackBit (s : State) (k : Fin 8) (v : Bool) : (s.putShiftBit k v).ackBit = s.ackBit := rfl
@[simp] theorem State.putShiftBit_sclOut (s : State) (k : Fin 8) (v : Bool) : (s.putShiftBit k v).sclOut = s.sclOut := rfl
@[simp] theorem State.putShiftBit_sdaOut (s : State) (k : Fin 8) (v : Bool) : (s.putShiftBit k v).sdaOut = s.sdaOut := rfl
@[simp] theorem State.putShiftBit_sclMode (s : State) (k : Fin 8) (v : Bool) : (s.putShiftBit k v).sclMode = s.sclMode := rfl
@[simp] theorem State.putShiftBit_sdaMode (s : State) (k : Fin 8) (v : Bool) : (s.putShiftBit k v).sdaMode = s.sdaMode := rfl
@[simp] theorem State.putShiftBit_rspValid (s : State) (k : Fin 8) (v : Bool) : (s.putShiftBit k v).rspValid = s.rspValid := rfl
@[simp] theorem State.putShiftBit_rspStatus (s : State) (k : Fin 8) (v : Bool) : (s.putShiftBit k v).rspStatus = s.rspStatus := rfl
@[simp] theorem State.putShiftBit_rspData (s : State) (k : Fin 8) (v : Bool) : (s.putShiftBit k v).rspData = s.rspData := rfl
@[simp] theorem State.putShiftBit_trace (s : State) (k : Fin 8) (v : Bool) : (s.putShiftBit k v).trace = s.trace := rfl
@[simp] theorem State.putShiftBit_env (s : State) (k : Fin 8) (v : Bool) : (s.putShiftBit k v).env = s.env := rfl
@[simp] theorem State.putShiftBit_inputs (s : State) (k : Fin 8) (v : Bool) : (s.putShiftBit k v).inputs = s.inputs := rfl
@[simp] theorem State.putShiftBit_port (s : State) (k : Fin 8) (v : Bool) : (s.putShiftBit k v).port = s.port := rfl
@[simp] theorem State.putShiftBit_owner (s : State) (k : Fin 8) (v : Bool) : (s.putShiftBit k v).owner = s.owner := rfl
@[simp] theorem State.putShiftBit_callers (s : State) (k : Fin 8) (v : Bool) : (s.putShiftBit k v).callers = s.callers := rfl
@[simp] theorem State.putShiftBit_params (s : State) (k : Fin 8) (v : Bool) : (s.putShiftBit k v).params = s.params := rfl

/-! ### `State.drawDrive` -/

@[simp] theorem State.drawDrive_life (s : State) : (s.drawDrive).life = s.life := rfl
@[simp] theorem State.drawDrive_cfg (s : State) : (s.drawDrive).cfg = s.cfg := rfl
@[simp] theorem State.drawDrive_guard (s : State) : (s.drawDrive).guard = s.guard := rfl
@[simp] theorem State.drawDrive_fsm (s : State) : (s.drawDrive).fsm = s.fsm := rfl
@[simp] theorem State.drawDrive_op (s : State) : (s.drawDrive).op = s.op := rfl
@[simp] theorem State.drawDrive_mpc (s : State) : (s.drawDrive).mpc = s.mpc := rfl
@[simp] theorem State.drawDrive_shift (s : State) : (s.drawDrive).shift = s.shift := rfl
@[simp] theorem State.drawDrive_ackReq (s : State) : (s.drawDrive).ackReq = s.ackReq := rfl
@[simp] theorem State.drawDrive_ackBit (s : State) : (s.drawDrive).ackBit = s.ackBit := rfl
@[simp] theorem State.drawDrive_sclOut (s : State) : (s.drawDrive).sclOut = s.sclOut := rfl
@[simp] theorem State.drawDrive_sdaOut (s : State) : (s.drawDrive).sdaOut = s.sdaOut := rfl
@[simp] theorem State.drawDrive_sclMode (s : State) : (s.drawDrive).sclMode = s.sclMode := rfl
@[simp] theorem State.drawDrive_sdaMode (s : State) : (s.drawDrive).sdaMode = s.sdaMode := rfl
@[simp] theorem State.drawDrive_rspValid (s : State) : (s.drawDrive).rspValid = s.rspValid := rfl
@[simp] theorem State.drawDrive_rspStatus (s : State) : (s.drawDrive).rspStatus = s.rspStatus := rfl
@[simp] theorem State.drawDrive_rspData (s : State) : (s.drawDrive).rspData = s.rspData := rfl
@[simp] theorem State.drawDrive_trace (s : State) : (s.drawDrive).trace = s.trace := rfl
@[simp] theorem State.drawDrive_env (s : State) : (s.drawDrive).env = s.inputs.nextDrive := rfl
@[simp] theorem State.drawDrive_inputs (s : State) : (s.drawDrive).inputs = s.inputs.dropDrive := rfl
@[simp] theorem State.drawDrive_port (s : State) : (s.drawDrive).port = s.port := rfl
@[simp] theorem State.drawDrive_owner (s : State) : (s.drawDrive).owner = s.owner := rfl
@[simp] theorem State.drawDrive_callers (s : State) : (s.drawDrive).callers = s.callers := rfl
@[simp] theorem State.drawDrive_params (s : State) : (s.drawDrive).params = s.params := rfl

/-! ### `State.configurePin` -/

@[simp] theorem State.configurePin_life (s : State) (l : Line) : (s.configurePin l).life = s.life := by
  cases l <;> rfl
@[simp] theorem State.configurePin_cfg (s : State) (l : Line) : (s.configurePin l).cfg = s.cfg := by
  cases l <;> rfl
@[simp] theorem State.configurePin_guard (s : State) (l : Line) : (s.configurePin l).guard = s.guard := by
  cases l <;> rfl
@[simp] theorem State.configurePin_fsm (s : State) (l : Line) : (s.configurePin l).fsm = s.fsm := by
  cases l <;> rfl
@[simp] theorem State.configurePin_op (s : State) (l : Line) : (s.configurePin l).op = s.op := by
  cases l <;> rfl
@[simp] theorem State.configurePin_mpc (s : State) (l : Line) : (s.configurePin l).mpc = s.mpc := by
  cases l <;> rfl
@[simp] theorem State.configurePin_shift (s : State) (l : Line) : (s.configurePin l).shift = s.shift := by
  cases l <;> rfl
@[simp] theorem State.configurePin_ackReq (s : State) (l : Line) : (s.configurePin l).ackReq = s.ackReq := by
  cases l <;> rfl
@[simp] theorem State.configurePin_ackBit (s : State) (l : Line) : (s.configurePin l).ackBit = s.ackBit := by
  cases l <;> rfl
@[simp] theorem State.configurePin_sclOut (s : State) (l : Line) : (s.configurePin l).sclOut = s.sclOut := by
  cases l <;> rfl
@[simp] theorem State.configurePin_sdaOut (s : State) (l : Line) : (s.configurePin l).sdaOut = s.sdaOut := by
  cases l <;> rfl
@[simp] theorem State.configurePin_rspValid (s : State) (l : Line) : (s.configurePin l).rspValid = s.rspValid := by
  cases l <;> rfl
@[simp] theorem State.configurePin_rspStatus (s : State) (l : Line) : (s.configurePin l).rspStatus = s.rspStatus := by
  cases l <;> rfl
@[simp] theorem State.configurePin_rspData (s : State) (l : Line) : (s.configurePin l).rspData = s.rspData := by
  cases l <;> rfl
@[simp] theorem State.configurePin_trace (s : State) (l : Line) : (s.configurePin l).trace = s.trace ++ [.configure l] := by
  cases l <;> rfl
@[simp] theorem State.configurePin_env (s : State) (l : Line) : (s.configurePin l).env = s.env := by
  cases l <;> rfl
@[simp] theorem State.configurePin_inputs (s : State) (l : Line) : (s.configurePin l).inputs = s.inputs := by
  cases l <;> rfl
@[simp] theorem State.configurePin_port (s : State) (l : Line) : (s.configurePin l).port = s.port := by
  cases l <;> rfl
@[simp] theorem State.configurePin_owner (s : State) (l : Line) : (s.configurePin l).owner = s.owner := by
  cases l <;> rfl
@[simp] theorem State.configurePin_callers (s : State) (l : Line) : (s.configurePin l).callers = s.callers := by
  cases l <;> rfl
@[simp] theorem State.configurePin_params (s : State) (l : Line) : (s.configurePin l).params = s.params := by
  cases l <;> rfl
@[simp] theorem State.configurePin_scl_sclMode (s : State) : (s.configurePin .scl).sclMode = .openDrain := rfl
@[simp] theorem State.configurePin_scl_sdaMode (s : State) : (s.configurePin .scl).sdaMode = s.sdaMode := rfl
@[simp] theorem State.configurePin_sda_sdaMode (s : State) : (s.configurePin .sda).sdaMode = .openDrain := rfl
@[simp] theorem State.configurePin_sda_sclMode (s : State) : (s.configurePin .sda).sclMode = s.sclMode := rfl

/-! ### `State.unconfigurePins` -/

@[simp] theorem State.unconfigurePins_life (s : State) : (s.unconfigurePins).life = s.life := rfl
@[simp] theorem State.unconfigurePins_cfg (s : State) : (s.unconfigurePins).cfg = s.cfg := rfl
@[simp] theorem State.unconfigurePins_guard (s : State) : (s.unconfigurePins).guard = s.guard := rfl
@[simp] theorem State.unconfigurePins_fsm (s : State) : (s.unconfigurePins).fsm = s.fsm := rfl
@[simp] theorem State.unconfigurePins_op (s : State) : (s.unconfigurePins).op = s.op := rfl
@[simp] theorem State.unconfigurePins_mpc (s : State) : (s.unconfigurePins).mpc = s.mpc := rfl
@[simp] theorem State.unconfigurePins_shift (s : State) : (s.unconfigurePins).shift = s.shift := rfl
@[simp] theorem State.unconfigurePins_ackReq (s : State) : (s.unconfigurePins).ackReq = s.ackReq := rfl
@[simp] theorem State.unconfigurePins_ackBit (s : State) : (s.unconfigurePins).ackBit = s.ackBit := rfl
@[simp] theorem State.unconfigurePins_sclOut (s : State) : (s.unconfigurePins).sclOut = s.sclOut := rfl
@[simp] theorem State.unconfigurePins_sdaOut (s : State) : (s.unconfigurePins).sdaOut = s.sdaOut := rfl
@[simp] theorem State.unconfigurePins_sclMode (s : State) : (s.unconfigurePins).sclMode = .highImpedance := rfl
@[simp] theorem State.unconfigurePins_sdaMode (s : State) : (s.unconfigurePins).sdaMode = .highImpedance := rfl
@[simp] theorem State.unconfigurePins_rspValid (s : State) : (s.unconfigurePins).rspValid = s.rspValid := rfl
@[simp] theorem State.unconfigurePins_rspStatus (s : State) : (s.unconfigurePins).rspStatus = s.rspStatus := rfl
@[simp] theorem State.unconfigurePins_rspData (s : State) : (s.unconfigurePins).rspData = s.rspData := rfl
@[simp] theorem State.unconfigurePins_trace (s : State) : (s.unconfigurePins).trace = s.trace := rfl
@[simp] theorem State.unconfigurePins_env (s : State) : (s.unconfigurePins).env = s.env := rfl
@[simp] theorem State.unconfigurePins_inputs (s : State) : (s.unconfigurePins).inputs = s.inputs := rfl
@[simp] theorem State.unconfigurePins_port (s : State) : (s.unconfigurePins).port = s.port := rfl
@[simp] theorem State.unconfigurePins_owner (s : State) : (s.unconfigurePins).owner = s.owner := rfl
@[simp] theorem State.unconfigurePins_callers (s : State) : (s.unconfigurePins).callers = s.callers := rfl
@[simp] theorem State.unconfigurePins_params (s : State) : (s.unconfigurePins).params = s.params := rfl

/-! ### `State.respond` -/

@[simp] theorem State.respond_life (s : State) (st : Status) (d : Byte) : (s.respond st d).life = s.life := rfl
@[simp] theorem State.respond_cfg (s : State) (st : Status) (d : Byte) : (s.respond st d).cfg = s.cfg := rfl
@[simp] theorem State.respond_guard (s : State) (st : Status) (d : Byte) : (s.respond st d).guard = s.guard := rfl
@[simp] theorem State.respond_fsm (s : State) (st : Status) (d : Byte) : (s.respond st d).fsm = s.fsm := rfl
@[simp] theorem State.respond_op (s : State) (st : Status) (d : Byte) : (s.respond st d).op = s.op := rfl
@[simp] theorem State.respond_mpc (s : State) (st : Status) (d : Byte) : (s.respond st d).mpc = s.mpc := rfl
@[simp] theorem State.respond_shift (s : State) (st : Status) (d : Byte) : (s.respond st d).shift = s.shift := rfl
@[simp] theorem State.respond_ackReq (s : State) (st : Status) (d : Byte) : (s.respond st d).ackReq = s.ackReq := rfl
@[simp] theorem State.respond_ackBit (s : State) (st : Status) (d : Byte) : (s.respond st d).ackBit = s.ackBit := rfl
@[simp] theorem State.respond_sclOut (s : State) (st : Status) (d : Byte) : (s.respond st d).sclOut = s.sclOut := rfl
@[simp] theorem State.respond_sdaOut (s : State) (st : Status) (d : Byte) : (s.respond st d).sdaOut = s.sdaOut := rfl
@[simp] theorem State.respond_sclMode (s : State) (st : Status) (d : Byte) : (s.respond st d).sclMode = s.sclMode := rfl
@[simp] theorem State.respond_sdaMode (s : State) (st : Status) (d : Byte) : (s.respond st d).sdaMode = s.sdaMode := rfl
@[simp] theorem State.respond_rspValid (s : State) (st : Status) (d : Byte) : (s.respond st d).rspValid = true := rfl
@[simp] theorem State.respond_rspStatus (s : State) (st : Status) (d : Byte) : (s.respond st d).rspStatus = st := rfl
@[simp] theorem State.respond_rspData (s : State) (st : Status) (d : Byte) : (s.respond st d).rspData = d := rfl
@[simp] theorem State.respond_trace (s : State) (st : Status) (d : Byte) : (s.respond st d).trace = s.trace ++ [.done st d] := rfl
@[simp] theorem State.respond_env (s : State) (st : Status) (d : Byte) : (s.respond st d).env = s.env := rfl
@[simp] theorem State.respond_inputs (s : State) (st : Status) (d : Byte) : (s.respond st d).inputs = s.inputs := rfl
@[simp] theorem State.respond_port (s : State) (st : Status) (d : Byte) : (s.respond st d).port = s.port := rfl
@[simp] theorem State.respond_owner (s : State) (st : Status) (d : Byte) : (s.respond st d).owner = s.owner := rfl
@[simp] theorem State.respond_callers (s : State) (st : Status) (d : Byte) : (s.respond st d).callers = s.callers := rfl
@[simp] theorem State.respond_params (s : State) (st : Status) (d : Byte) : (s.respond st d).params = s.params := rfl

/-! ### `State.takeWord` -/

@[simp] theorem State.takeWord_life (s : State) (w : Cmd) : (s.takeWord w).life = s.life := rfl
@[simp] theorem State.takeWord_cfg (s : State) (w : Cmd) : (s.takeWord w).cfg = s.cfg := rfl
@[simp] theorem State.takeWord_guard (s : State) (w : Cmd) : (s.takeWord w).guard = s.guard := rfl
@[simp] theorem State.takeWord_fsm (s : State) (w : Cmd) : (s.takeWord w).fsm = s.fsm := rfl
@[simp] theorem State.takeWord_op (s : State) (w : Cmd) : (s.takeWord w).op = s.op := rfl
@[simp] theorem State.takeWord_mpc (s : State) (w : Cmd) : (s.takeWord w).mpc = s.mpc := rfl
@[simp] theorem State.takeWord_shift (s : State) (w : Cmd) : (s.takeWord w).shift = s.shift := rfl
@[simp] theorem State.takeWord_ackReq (s : State) (w : Cmd) : (s.takeWord w).ackReq = s.ackReq := rfl
@[simp] theorem State.takeWord_ackBit (s : State) (w : Cmd) : (s.takeWord w).ackBit = s.ackBit := rfl
@[simp] theorem State.takeWord_sclOut (s : State) (w : Cmd) : (s.takeWord w).sclOut = s.sclOut := rfl
@[simp] theorem State.takeWord_sdaOut (s : State) (w : Cmd) : (s.takeWord w).sdaOut = s.sdaOut := rfl
@[simp] theorem State.takeWord_sclMode (s : State) (w : Cmd) : (s.takeWord w).sclMode = s.sclMode := rfl
@[simp] theorem State.takeWord_sdaMode (s : State) (w : Cmd) : (s.takeWord w).sdaMode = s.sdaMode := rfl
@[simp] theorem State.takeWord_rspValid (s : State) (w : Cmd) : (s.takeWord w).rspValid = false := rfl
@[simp] theorem State.takeWord_rspStatus (s : State) (w : Cmd) : (s.takeWord w).rspStatus = s.rspStatus := rfl
@[simp] theorem State.takeWord_rspData (s : State) (w : Cmd) : (s.takeWord w).rspData = s.rspData := rfl
@[simp] theorem State.takeWord_trace (s : State) (w : Cmd) : (s.takeWord w).trace = s.trace ++ [.accept w] := rfl
@[simp] theorem State.takeWord_env (s : State) (w : Cmd) : (s.takeWord w).env = s.env := rfl
@[simp] theorem State.takeWord_inputs (s : State) (w : Cmd) : (s.takeWord w).inputs = s.inputs := rfl
@[simp] theorem State.takeWord_port (s : State) (w : Cmd) : (s.takeWord w).port = none := rfl
@[simp] theorem State.takeWord_owner (s : State) (w : Cmd) : (s.takeWord w).owner = s.owner := rfl
@[simp] theorem State.takeWord_callers (s : State) (w : Cmd) : (s.takeWord w).callers = s.callers := rfl
@[simp] theorem State.takeWord_params (s : State) (w : Cmd) : (s.takeWord w).params = s.params := rfl

/-! ### `State.forgetResponse` -/

@[simp] theorem State.forgetResponse_life (s : State) : (s.forgetResponse).life = s.life := rfl
@[simp] theorem State.forgetResponse_cfg (s : State) : (s.forgetResponse).cfg = s.cfg := rfl
@[simp] theorem State.forgetResponse_guard (s : State) : (s.forgetResponse).guard = s.guard := rfl
@[simp] theorem State.forgetResponse_fsm (s : State) : (s.forgetResponse).fsm = s.fsm := rfl
@[simp] theorem State.forgetResponse_op (s : State) : (s.forgetResponse).op = s.op := rfl
@[simp] theorem State.forgetResponse_mpc (s : State) : (s.forgetResponse).mpc = s.mpc := rfl
@[simp] theorem State.forgetResponse_shift (s : State) : (s.forgetResponse).shift = s.shift := rfl
@[simp] theorem State.forgetResponse_ackReq (s : State) : (s.forgetResponse).ackReq = s.ackReq := rfl
@[simp] theorem State.forgetResponse_ackBit (s : State) : (s.forgetResponse).ackBit = s.ackBit := rfl
@[simp] theorem State.forgetResponse_sclOut (s : State) : (s.forgetResponse).sclOut = s.sclOut := rfl
@[simp] theorem State.forgetResponse_sdaOut (s : State) : (s.forgetResponse).sdaOut = s.sdaOut := rfl
@[simp] theorem State.forgetResponse_sclMode (s : State) : (s.forgetResponse).sclMode = s.sclMode := rfl
@[simp] theorem State.forgetResponse_sdaMode (s : State) : (s.forgetResponse).sdaMode = s.sdaMode := rfl
@[simp] theorem State.forgetResponse_rspValid (s : State) : (s.forgetResponse).rspValid = s.rspValid := rfl
@[simp] theorem State.forgetResponse_rspStatus (s : State) : (s.forgetResponse).rspStatus = Config.freeRspStatus s.inputs.stream s.inputs.draws := rfl
@[simp] theorem State.forgetResponse_rspData (s : State) : (s.forgetResponse).rspData = Config.freeRspData s.inputs.stream s.inputs.draws := rfl
@[simp] theorem State.forgetResponse_trace (s : State) : (s.forgetResponse).trace = s.trace := rfl
@[simp] theorem State.forgetResponse_env (s : State) : (s.forgetResponse).env = s.env := rfl
@[simp] theorem State.forgetResponse_inputs (s : State) : (s.forgetResponse).inputs = s.inputs.afterAcceptance := rfl
@[simp] theorem State.forgetResponse_port (s : State) : (s.forgetResponse).port = s.port := rfl
@[simp] theorem State.forgetResponse_owner (s : State) : (s.forgetResponse).owner = s.owner := rfl
@[simp] theorem State.forgetResponse_callers (s : State) : (s.forgetResponse).callers = s.callers := rfl
@[simp] theorem State.forgetResponse_params (s : State) : (s.forgetResponse).params = s.params := rfl

/-! ### `State.acquire` -/

@[simp] theorem State.acquire_life (s : State) (o : Op) (f : FsmState) : (s.acquire o f).life = s.life := rfl
@[simp] theorem State.acquire_cfg (s : State) (o : Op) (f : FsmState) : (s.acquire o f).cfg = s.cfg := rfl
@[simp] theorem State.acquire_guard (s : State) (o : Op) (f : FsmState) : (s.acquire o f).guard = true := rfl
@[simp] theorem State.acquire_fsm (s : State) (o : Op) (f : FsmState) : (s.acquire o f).fsm = f := rfl
@[simp] theorem State.acquire_op (s : State) (o : Op) (f : FsmState) : (s.acquire o f).op = o := rfl
@[simp] theorem State.acquire_mpc (s : State) (o : Op) (f : FsmState) : (s.acquire o f).mpc = 0#6 := rfl
@[simp] theorem State.acquire_shift (s : State) (o : Op) (f : FsmState) : (s.acquire o f).shift = s.shift := rfl
@[simp] theorem State.acquire_ackReq (s : State) (o : Op) (f : FsmState) : (s.acquire o f).ackReq = s.ackReq := rfl
@[simp] theorem State.acquire_ackBit (s : State) (o : Op) (f : FsmState) : (s.acquire o f).ackBit = s.ackBit := rfl
@[simp] theorem State.acquire_sclOut (s : State) (o : Op) (f : FsmState) : (s.acquire o f).sclOut = s.sclOut := rfl
@[simp] theorem State.acquire_sdaOut (s : State) (o : Op) (f : FsmState) : (s.acquire o f).sdaOut = s.sdaOut := rfl
@[simp] theorem State.acquire_sclMode (s : State) (o : Op) (f : FsmState) : (s.acquire o f).sclMode = s.sclMode := rfl
@[simp] theorem State.acquire_sdaMode (s : State) (o : Op) (f : FsmState) : (s.acquire o f).sdaMode = s.sdaMode := rfl
@[simp] theorem State.acquire_rspValid (s : State) (o : Op) (f : FsmState) : (s.acquire o f).rspValid = s.rspValid := rfl
@[simp] theorem State.acquire_rspStatus (s : State) (o : Op) (f : FsmState) : (s.acquire o f).rspStatus = s.rspStatus := rfl
@[simp] theorem State.acquire_rspData (s : State) (o : Op) (f : FsmState) : (s.acquire o f).rspData = s.rspData := rfl
@[simp] theorem State.acquire_trace (s : State) (o : Op) (f : FsmState) : (s.acquire o f).trace = s.trace := rfl
@[simp] theorem State.acquire_env (s : State) (o : Op) (f : FsmState) : (s.acquire o f).env = s.env := rfl
@[simp] theorem State.acquire_inputs (s : State) (o : Op) (f : FsmState) : (s.acquire o f).inputs = s.inputs := rfl
@[simp] theorem State.acquire_port (s : State) (o : Op) (f : FsmState) : (s.acquire o f).port = s.port := rfl
@[simp] theorem State.acquire_owner (s : State) (o : Op) (f : FsmState) : (s.acquire o f).owner = s.owner := rfl
@[simp] theorem State.acquire_callers (s : State) (o : Op) (f : FsmState) : (s.acquire o f).callers = s.callers := rfl
@[simp] theorem State.acquire_params (s : State) (o : Op) (f : FsmState) : (s.acquire o f).params = s.params := rfl

/-! ### `State.release` -/

@[simp] theorem State.release_life (s : State) : (s.release).life = s.life := rfl
@[simp] theorem State.release_cfg (s : State) : (s.release).cfg = s.cfg := rfl
@[simp] theorem State.release_guard (s : State) : (s.release).guard = false := rfl
@[simp] theorem State.release_fsm (s : State) : (s.release).fsm = .idle := rfl
@[simp] theorem State.release_op (s : State) : (s.release).op = s.op := rfl
@[simp] theorem State.release_mpc (s : State) : (s.release).mpc = Config.freeIdleMpc s.inputs.stream s.inputs.draws := rfl
@[simp] theorem State.release_shift (s : State) : (s.release).shift = s.shift := rfl
@[simp] theorem State.release_ackReq (s : State) : (s.release).ackReq = s.ackReq := rfl
@[simp] theorem State.release_ackBit (s : State) : (s.release).ackBit = s.ackBit := rfl
@[simp] theorem State.release_sclOut (s : State) : (s.release).sclOut = s.sclOut := rfl
@[simp] theorem State.release_sdaOut (s : State) : (s.release).sdaOut = s.sdaOut := rfl
@[simp] theorem State.release_sclMode (s : State) : (s.release).sclMode = s.sclMode := rfl
@[simp] theorem State.release_sdaMode (s : State) : (s.release).sdaMode = s.sdaMode := rfl
@[simp] theorem State.release_rspValid (s : State) : (s.release).rspValid = s.rspValid := rfl
@[simp] theorem State.release_rspStatus (s : State) : (s.release).rspStatus = s.rspStatus := rfl
@[simp] theorem State.release_rspData (s : State) : (s.release).rspData = s.rspData := rfl
@[simp] theorem State.release_trace (s : State) : (s.release).trace = s.trace := rfl
@[simp] theorem State.release_env (s : State) : (s.release).env = s.env := rfl
@[simp] theorem State.release_inputs (s : State) : (s.release).inputs = { s.inputs with draws := s.inputs.draws + 1 } := rfl
@[simp] theorem State.release_port (s : State) : (s.release).port = s.port := rfl
@[simp] theorem State.release_owner (s : State) : (s.release).owner = s.owner := rfl
@[simp] theorem State.release_callers (s : State) : (s.release).callers = s.callers := rfl
@[simp] theorem State.release_params (s : State) : (s.release).params = s.params := rfl

/-! ### `State.loadShift` -/

@[simp] theorem State.loadShift_life (s : State) (b : Byte) : (s.loadShift b).life = s.life := rfl
@[simp] theorem State.loadShift_cfg (s : State) (b : Byte) : (s.loadShift b).cfg = s.cfg := rfl
@[simp] theorem State.loadShift_guard (s : State) (b : Byte) : (s.loadShift b).guard = s.guard := rfl
@[simp] theorem State.loadShift_fsm (s : State) (b : Byte) : (s.loadShift b).fsm = s.fsm := rfl
@[simp] theorem State.loadShift_op (s : State) (b : Byte) : (s.loadShift b).op = s.op := rfl
@[simp] theorem State.loadShift_mpc (s : State) (b : Byte) : (s.loadShift b).mpc = s.mpc := rfl
@[simp] theorem State.loadShift_shift (s : State) (b : Byte) : (s.loadShift b).shift = b := rfl
@[simp] theorem State.loadShift_ackReq (s : State) (b : Byte) : (s.loadShift b).ackReq = s.ackReq := rfl
@[simp] theorem State.loadShift_ackBit (s : State) (b : Byte) : (s.loadShift b).ackBit = s.ackBit := rfl
@[simp] theorem State.loadShift_sclOut (s : State) (b : Byte) : (s.loadShift b).sclOut = s.sclOut := rfl
@[simp] theorem State.loadShift_sdaOut (s : State) (b : Byte) : (s.loadShift b).sdaOut = s.sdaOut := rfl
@[simp] theorem State.loadShift_sclMode (s : State) (b : Byte) : (s.loadShift b).sclMode = s.sclMode := rfl
@[simp] theorem State.loadShift_sdaMode (s : State) (b : Byte) : (s.loadShift b).sdaMode = s.sdaMode := rfl
@[simp] theorem State.loadShift_rspValid (s : State) (b : Byte) : (s.loadShift b).rspValid = s.rspValid := rfl
@[simp] theorem State.loadShift_rspStatus (s : State) (b : Byte) : (s.loadShift b).rspStatus = s.rspStatus := rfl
@[simp] theorem State.loadShift_rspData (s : State) (b : Byte) : (s.loadShift b).rspData = s.rspData := rfl
@[simp] theorem State.loadShift_trace (s : State) (b : Byte) : (s.loadShift b).trace = s.trace := rfl
@[simp] theorem State.loadShift_env (s : State) (b : Byte) : (s.loadShift b).env = s.env := rfl
@[simp] theorem State.loadShift_inputs (s : State) (b : Byte) : (s.loadShift b).inputs = s.inputs := rfl
@[simp] theorem State.loadShift_port (s : State) (b : Byte) : (s.loadShift b).port = s.port := rfl
@[simp] theorem State.loadShift_owner (s : State) (b : Byte) : (s.loadShift b).owner = s.owner := rfl
@[simp] theorem State.loadShift_callers (s : State) (b : Byte) : (s.loadShift b).callers = s.callers := rfl
@[simp] theorem State.loadShift_params (s : State) (b : Byte) : (s.loadShift b).params = s.params := rfl

/-! ### `State.loadAckReq` -/

@[simp] theorem State.loadAckReq_life (s : State) (a : Bool) : (s.loadAckReq a).life = s.life := rfl
@[simp] theorem State.loadAckReq_cfg (s : State) (a : Bool) : (s.loadAckReq a).cfg = s.cfg := rfl
@[simp] theorem State.loadAckReq_guard (s : State) (a : Bool) : (s.loadAckReq a).guard = s.guard := rfl
@[simp] theorem State.loadAckReq_fsm (s : State) (a : Bool) : (s.loadAckReq a).fsm = s.fsm := rfl
@[simp] theorem State.loadAckReq_op (s : State) (a : Bool) : (s.loadAckReq a).op = s.op := rfl
@[simp] theorem State.loadAckReq_mpc (s : State) (a : Bool) : (s.loadAckReq a).mpc = s.mpc := rfl
@[simp] theorem State.loadAckReq_shift (s : State) (a : Bool) : (s.loadAckReq a).shift = s.shift := rfl
@[simp] theorem State.loadAckReq_ackReq (s : State) (a : Bool) : (s.loadAckReq a).ackReq = a := rfl
@[simp] theorem State.loadAckReq_ackBit (s : State) (a : Bool) : (s.loadAckReq a).ackBit = s.ackBit := rfl
@[simp] theorem State.loadAckReq_sclOut (s : State) (a : Bool) : (s.loadAckReq a).sclOut = s.sclOut := rfl
@[simp] theorem State.loadAckReq_sdaOut (s : State) (a : Bool) : (s.loadAckReq a).sdaOut = s.sdaOut := rfl
@[simp] theorem State.loadAckReq_sclMode (s : State) (a : Bool) : (s.loadAckReq a).sclMode = s.sclMode := rfl
@[simp] theorem State.loadAckReq_sdaMode (s : State) (a : Bool) : (s.loadAckReq a).sdaMode = s.sdaMode := rfl
@[simp] theorem State.loadAckReq_rspValid (s : State) (a : Bool) : (s.loadAckReq a).rspValid = s.rspValid := rfl
@[simp] theorem State.loadAckReq_rspStatus (s : State) (a : Bool) : (s.loadAckReq a).rspStatus = s.rspStatus := rfl
@[simp] theorem State.loadAckReq_rspData (s : State) (a : Bool) : (s.loadAckReq a).rspData = s.rspData := rfl
@[simp] theorem State.loadAckReq_trace (s : State) (a : Bool) : (s.loadAckReq a).trace = s.trace := rfl
@[simp] theorem State.loadAckReq_env (s : State) (a : Bool) : (s.loadAckReq a).env = s.env := rfl
@[simp] theorem State.loadAckReq_inputs (s : State) (a : Bool) : (s.loadAckReq a).inputs = s.inputs := rfl
@[simp] theorem State.loadAckReq_port (s : State) (a : Bool) : (s.loadAckReq a).port = s.port := rfl
@[simp] theorem State.loadAckReq_owner (s : State) (a : Bool) : (s.loadAckReq a).owner = s.owner := rfl
@[simp] theorem State.loadAckReq_callers (s : State) (a : Bool) : (s.loadAckReq a).callers = s.callers := rfl
@[simp] theorem State.loadAckReq_params (s : State) (a : Bool) : (s.loadAckReq a).params = s.params := rfl

/-! ### `State.drawAlloc` -/

@[simp] theorem State.drawAlloc_life (s : State) : (s.drawAlloc).life = s.life := rfl
@[simp] theorem State.drawAlloc_cfg (s : State) : (s.drawAlloc).cfg = s.cfg := rfl
@[simp] theorem State.drawAlloc_guard (s : State) : (s.drawAlloc).guard = s.guard := rfl
@[simp] theorem State.drawAlloc_fsm (s : State) : (s.drawAlloc).fsm = s.fsm := rfl
@[simp] theorem State.drawAlloc_op (s : State) : (s.drawAlloc).op = s.op := rfl
@[simp] theorem State.drawAlloc_mpc (s : State) : (s.drawAlloc).mpc = s.mpc := rfl
@[simp] theorem State.drawAlloc_shift (s : State) : (s.drawAlloc).shift = s.shift := rfl
@[simp] theorem State.drawAlloc_ackReq (s : State) : (s.drawAlloc).ackReq = s.ackReq := rfl
@[simp] theorem State.drawAlloc_ackBit (s : State) : (s.drawAlloc).ackBit = s.ackBit := rfl
@[simp] theorem State.drawAlloc_sclOut (s : State) : (s.drawAlloc).sclOut = s.sclOut := rfl
@[simp] theorem State.drawAlloc_sdaOut (s : State) : (s.drawAlloc).sdaOut = s.sdaOut := rfl
@[simp] theorem State.drawAlloc_sclMode (s : State) : (s.drawAlloc).sclMode = s.sclMode := rfl
@[simp] theorem State.drawAlloc_sdaMode (s : State) : (s.drawAlloc).sdaMode = s.sdaMode := rfl
@[simp] theorem State.drawAlloc_rspValid (s : State) : (s.drawAlloc).rspValid = s.rspValid := rfl
@[simp] theorem State.drawAlloc_rspStatus (s : State) : (s.drawAlloc).rspStatus = s.rspStatus := rfl
@[simp] theorem State.drawAlloc_rspData (s : State) : (s.drawAlloc).rspData = s.rspData := rfl
@[simp] theorem State.drawAlloc_trace (s : State) : (s.drawAlloc).trace = s.trace := rfl
@[simp] theorem State.drawAlloc_env (s : State) : (s.drawAlloc).env = s.env := rfl
@[simp] theorem State.drawAlloc_inputs (s : State) : (s.drawAlloc).inputs = s.inputs.dropAlloc := rfl
@[simp] theorem State.drawAlloc_port (s : State) : (s.drawAlloc).port = s.port := rfl
@[simp] theorem State.drawAlloc_owner (s : State) : (s.drawAlloc).owner = s.owner := rfl
@[simp] theorem State.drawAlloc_callers (s : State) : (s.drawAlloc).callers = s.callers := rfl
@[simp] theorem State.drawAlloc_params (s : State) : (s.drawAlloc).params = s.params := rfl

/-! ### `State.drawElapsed` -/

@[simp] theorem State.drawElapsed_life (s : State) : (s.drawElapsed).life = s.life := rfl
@[simp] theorem State.drawElapsed_cfg (s : State) : (s.drawElapsed).cfg = s.cfg := rfl
@[simp] theorem State.drawElapsed_guard (s : State) : (s.drawElapsed).guard = s.guard := rfl
@[simp] theorem State.drawElapsed_fsm (s : State) : (s.drawElapsed).fsm = s.fsm := rfl
@[simp] theorem State.drawElapsed_op (s : State) : (s.drawElapsed).op = s.op := rfl
@[simp] theorem State.drawElapsed_mpc (s : State) : (s.drawElapsed).mpc = s.mpc := rfl
@[simp] theorem State.drawElapsed_shift (s : State) : (s.drawElapsed).shift = s.shift := rfl
@[simp] theorem State.drawElapsed_ackReq (s : State) : (s.drawElapsed).ackReq = s.ackReq := rfl
@[simp] theorem State.drawElapsed_ackBit (s : State) : (s.drawElapsed).ackBit = s.ackBit := rfl
@[simp] theorem State.drawElapsed_sclOut (s : State) : (s.drawElapsed).sclOut = s.sclOut := rfl
@[simp] theorem State.drawElapsed_sdaOut (s : State) : (s.drawElapsed).sdaOut = s.sdaOut := rfl
@[simp] theorem State.drawElapsed_sclMode (s : State) : (s.drawElapsed).sclMode = s.sclMode := rfl
@[simp] theorem State.drawElapsed_sdaMode (s : State) : (s.drawElapsed).sdaMode = s.sdaMode := rfl
@[simp] theorem State.drawElapsed_rspValid (s : State) : (s.drawElapsed).rspValid = s.rspValid := rfl
@[simp] theorem State.drawElapsed_rspStatus (s : State) : (s.drawElapsed).rspStatus = s.rspStatus := rfl
@[simp] theorem State.drawElapsed_rspData (s : State) : (s.drawElapsed).rspData = s.rspData := rfl
@[simp] theorem State.drawElapsed_trace (s : State) : (s.drawElapsed).trace = s.trace := rfl
@[simp] theorem State.drawElapsed_env (s : State) : (s.drawElapsed).env = s.env := rfl
@[simp] theorem State.drawElapsed_inputs (s : State) : (s.drawElapsed).inputs = s.inputs.dropElapsed := rfl
@[simp] theorem State.drawElapsed_port (s : State) : (s.drawElapsed).port = s.port := rfl
@[simp] theorem State.drawElapsed_owner (s : State) : (s.drawElapsed).owner = s.owner := rfl
@[simp] theorem State.drawElapsed_callers (s : State) : (s.drawElapsed).callers = s.callers := rfl
@[simp] theorem State.drawElapsed_params (s : State) : (s.drawElapsed).params = s.params := rfl

/-! ### `State.drawGrant` -/

@[simp] theorem State.drawGrant_life (s : State) : (s.drawGrant).life = s.life := rfl
@[simp] theorem State.drawGrant_cfg (s : State) : (s.drawGrant).cfg = s.cfg := rfl
@[simp] theorem State.drawGrant_guard (s : State) : (s.drawGrant).guard = s.guard := rfl
@[simp] theorem State.drawGrant_fsm (s : State) : (s.drawGrant).fsm = s.fsm := rfl
@[simp] theorem State.drawGrant_op (s : State) : (s.drawGrant).op = s.op := rfl
@[simp] theorem State.drawGrant_mpc (s : State) : (s.drawGrant).mpc = s.mpc := rfl
@[simp] theorem State.drawGrant_shift (s : State) : (s.drawGrant).shift = s.shift := rfl
@[simp] theorem State.drawGrant_ackReq (s : State) : (s.drawGrant).ackReq = s.ackReq := rfl
@[simp] theorem State.drawGrant_ackBit (s : State) : (s.drawGrant).ackBit = s.ackBit := rfl
@[simp] theorem State.drawGrant_sclOut (s : State) : (s.drawGrant).sclOut = s.sclOut := rfl
@[simp] theorem State.drawGrant_sdaOut (s : State) : (s.drawGrant).sdaOut = s.sdaOut := rfl
@[simp] theorem State.drawGrant_sclMode (s : State) : (s.drawGrant).sclMode = s.sclMode := rfl
@[simp] theorem State.drawGrant_sdaMode (s : State) : (s.drawGrant).sdaMode = s.sdaMode := rfl
@[simp] theorem State.drawGrant_rspValid (s : State) : (s.drawGrant).rspValid = s.rspValid := rfl
@[simp] theorem State.drawGrant_rspStatus (s : State) : (s.drawGrant).rspStatus = s.rspStatus := rfl
@[simp] theorem State.drawGrant_rspData (s : State) : (s.drawGrant).rspData = s.rspData := rfl
@[simp] theorem State.drawGrant_trace (s : State) : (s.drawGrant).trace = s.trace := rfl
@[simp] theorem State.drawGrant_env (s : State) : (s.drawGrant).env = s.env := rfl
@[simp] theorem State.drawGrant_inputs (s : State) : (s.drawGrant).inputs = s.inputs.dropGrant := rfl
@[simp] theorem State.drawGrant_port (s : State) : (s.drawGrant).port = s.port := rfl
@[simp] theorem State.drawGrant_owner (s : State) : (s.drawGrant).owner = s.owner := rfl
@[simp] theorem State.drawGrant_callers (s : State) : (s.drawGrant).callers = s.callers := rfl
@[simp] theorem State.drawGrant_params (s : State) : (s.drawGrant).params = s.params := rfl

/-! ### `State.setCaller` -/

@[simp] theorem State.setCaller_life (s : State) (k : Nat) (c : Caller) : (s.setCaller k c).life = s.life := rfl
@[simp] theorem State.setCaller_cfg (s : State) (k : Nat) (c : Caller) : (s.setCaller k c).cfg = s.cfg := rfl
@[simp] theorem State.setCaller_guard (s : State) (k : Nat) (c : Caller) : (s.setCaller k c).guard = s.guard := rfl
@[simp] theorem State.setCaller_fsm (s : State) (k : Nat) (c : Caller) : (s.setCaller k c).fsm = s.fsm := rfl
@[simp] theorem State.setCaller_op (s : State) (k : Nat) (c : Caller) : (s.setCaller k c).op = s.op := rfl
@[simp] theorem State.setCaller_mpc (s : State) (k : Nat) (c : Caller) : (s.setCaller k c).mpc = s.mpc := rfl
@[simp] theorem State.setCaller_shift (s : State) (k : Nat) (c : Caller) : (s.setCaller k c).shift = s.shift := rfl
@[simp] theorem State.setCaller_ackReq (s : State) (k : Nat) (c : Caller) : (s.setCaller k c).ackReq = s.ackReq := rfl
@[simp] theorem State.setCaller_ackBit (s : State) (k : Nat) (c : Caller) : (s.setCaller k c).ackBit = s.ackBit := rfl
@[simp] theorem State.setCaller_sclOut (s : State) (k : Nat) (c : Caller) : (s.setCaller k c).sclOut = s.sclOut := rfl
@[simp] theorem State.setCaller_sdaOut (s : State) (k : Nat) (c : Caller) : (s.setCaller k c).sdaOut = s.sdaOut := rfl
@[simp] theorem State.setCaller_sclMode (s : State) (k : Nat) (c : Caller) : (s.setCaller k c).sclMode = s.sclMode := rfl
@[simp] theorem State.setCaller_sdaMode (s : State) (k : Nat) (c : Caller) : (s.setCaller k c).sdaMode = s.sdaMode := rfl
@[simp] theorem State.setCaller_rspValid (s : State) (k : Nat) (c : Caller) : (s.setCaller k c).rspValid = s.rspValid := rfl
@[simp] theorem State.setCaller_rspStatus (s : State) (k : Nat) (c : Caller) : (s.setCaller k c).rspStatus = s.rspStatus := rfl
@[simp] theorem State.setCaller_rspData (s : State) (k : Nat) (c : Caller) : (s.setCaller k c).rspData = s.rspData := rfl
@[simp] theorem State.setCaller_trace (s : State) (k : Nat) (c : Caller) : (s.setCaller k c).trace = s.trace := rfl
@[simp] theorem State.setCaller_env (s : State) (k : Nat) (c : Caller) : (s.setCaller k c).env = s.env := rfl
@[simp] theorem State.setCaller_inputs (s : State) (k : Nat) (c : Caller) : (s.setCaller k c).inputs = s.inputs := rfl
@[simp] theorem State.setCaller_port (s : State) (k : Nat) (c : Caller) : (s.setCaller k c).port = s.port := rfl
@[simp] theorem State.setCaller_owner (s : State) (k : Nat) (c : Caller) : (s.setCaller k c).owner = s.owner := rfl
@[simp] theorem State.setCaller_callers (s : State) (k : Nat) (c : Caller) : (s.setCaller k c).callers = s.callers.set k c := rfl
@[simp] theorem State.setCaller_params (s : State) (k : Nat) (c : Caller) : (s.setCaller k c).params = s.params := rfl

/-! ### `State.present` -/

@[simp] theorem State.present_life (s : State) (k : Nat) (c : Caller) (w : Cmd) : (s.present k c w).life = s.life := rfl
@[simp] theorem State.present_cfg (s : State) (k : Nat) (c : Caller) (w : Cmd) : (s.present k c w).cfg = s.cfg := rfl
@[simp] theorem State.present_guard (s : State) (k : Nat) (c : Caller) (w : Cmd) : (s.present k c w).guard = s.guard := rfl
@[simp] theorem State.present_fsm (s : State) (k : Nat) (c : Caller) (w : Cmd) : (s.present k c w).fsm = s.fsm := rfl
@[simp] theorem State.present_op (s : State) (k : Nat) (c : Caller) (w : Cmd) : (s.present k c w).op = s.op := rfl
@[simp] theorem State.present_mpc (s : State) (k : Nat) (c : Caller) (w : Cmd) : (s.present k c w).mpc = s.mpc := rfl
@[simp] theorem State.present_shift (s : State) (k : Nat) (c : Caller) (w : Cmd) : (s.present k c w).shift = s.shift := rfl
@[simp] theorem State.present_ackReq (s : State) (k : Nat) (c : Caller) (w : Cmd) : (s.present k c w).ackReq = s.ackReq := rfl
@[simp] theorem State.present_ackBit (s : State) (k : Nat) (c : Caller) (w : Cmd) : (s.present k c w).ackBit = s.ackBit := rfl
@[simp] theorem State.present_sclOut (s : State) (k : Nat) (c : Caller) (w : Cmd) : (s.present k c w).sclOut = s.sclOut := rfl
@[simp] theorem State.present_sdaOut (s : State) (k : Nat) (c : Caller) (w : Cmd) : (s.present k c w).sdaOut = s.sdaOut := rfl
@[simp] theorem State.present_sclMode (s : State) (k : Nat) (c : Caller) (w : Cmd) : (s.present k c w).sclMode = s.sclMode := rfl
@[simp] theorem State.present_sdaMode (s : State) (k : Nat) (c : Caller) (w : Cmd) : (s.present k c w).sdaMode = s.sdaMode := rfl
@[simp] theorem State.present_rspValid (s : State) (k : Nat) (c : Caller) (w : Cmd) : (s.present k c w).rspValid = s.rspValid := rfl
@[simp] theorem State.present_rspStatus (s : State) (k : Nat) (c : Caller) (w : Cmd) : (s.present k c w).rspStatus = s.rspStatus := rfl
@[simp] theorem State.present_rspData (s : State) (k : Nat) (c : Caller) (w : Cmd) : (s.present k c w).rspData = s.rspData := rfl
@[simp] theorem State.present_trace (s : State) (k : Nat) (c : Caller) (w : Cmd) : (s.present k c w).trace = s.trace := rfl
@[simp] theorem State.present_env (s : State) (k : Nat) (c : Caller) (w : Cmd) : (s.present k c w).env = s.env := rfl
@[simp] theorem State.present_inputs (s : State) (k : Nat) (c : Caller) (w : Cmd) : (s.present k c w).inputs = s.inputs := rfl
@[simp] theorem State.present_port (s : State) (k : Nat) (c : Caller) (w : Cmd) : (s.present k c w).port = some w := rfl
@[simp] theorem State.present_owner (s : State) (k : Nat) (c : Caller) (w : Cmd) : (s.present k c w).owner = some k := rfl
@[simp] theorem State.present_callers (s : State) (k : Nat) (c : Caller) (w : Cmd) : (s.present k c w).callers = s.callers.set k (c.note [.issued w]) := rfl
@[simp] theorem State.present_params (s : State) (k : Nat) (c : Caller) (w : Cmd) : (s.present k c w).params = s.params := rfl

@[simp] theorem State.loadNothing_eq (s : State) : s.loadNothing = s := rfl

/-! ### `Caller.note` and `Caller.finish` -/

@[simp] theorem Caller.note_todo (c : Caller) (es : List HostEvent) : (c.note es).todo = c.todo := rfl
@[simp] theorem Caller.note_again (c : Caller) (es : List HostEvent) : (c.note es).again = c.again := rfl
@[simp] theorem Caller.note_tearingDown (c : Caller) (es : List HostEvent) : (c.note es).tearingDown = c.tearingDown := rfl
@[simp] theorem Caller.note_call (c : Caller) (es : List HostEvent) : (c.note es).call = c.call := rfl
@[simp] theorem Caller.note_clock (c : Caller) (es : List HostEvent) : (c.note es).clock = c.clock := rfl
@[simp] theorem Caller.note_history (c : Caller) (es : List HostEvent) : (c.note es).history = c.history ++ es := rfl
@[simp] theorem Caller.note_pending (c : Caller) (es : List HostEvent) : (c.note es).pending = c.pending := rfl
@[simp] theorem Caller.finish_again (c : Caller) : c.finish.again = c.again := rfl
@[simp] theorem Caller.finish_tearingDown (c : Caller) : c.finish.tearingDown = c.tearingDown := rfl
@[simp] theorem Caller.finish_call (c : Caller) : c.finish.call = c.call := rfl
@[simp] theorem Caller.finish_clock (c : Caller) : c.finish.clock = c.clock := rfl
@[simp] theorem Caller.finish_history (c : Caller) : c.finish.history = c.history := rfl
@[simp] theorem Caller.finish_todo (c : Caller) : c.finish.todo = c.pending.tail := rfl

/-- What a caller does next is among its operations. -/
theorem Caller.mem_of_mem_pending {c : Caller} {o : HostOp} (h : o ∈ c.pending) : o ∈ c.todo ++ c.again := by
  unfold Caller.pending at h
  split at h
  · exact List.mem_append.2 (.inr h)
  · rw [‹c.todo = _›]; exact List.mem_append.2 (.inl h)

/-- An operation done leaves only operations of the caller's. -/
theorem Caller.mem_of_mem_finish {c : Caller} {o : HostOp} (h : o ∈ c.finish.todo ++ c.finish.again) : o ∈ c.todo ++ c.again := by
  rcases List.mem_append.1 h with h | h
  · exact Caller.mem_of_mem_pending (List.mem_of_mem_tail h)
  · exact List.mem_append.2 (.inr h)

end Sys2Proof.Machine
end

