-- ==== Sys2Proof/Laws/Engine.lean ====
section
/-! SUPPORT. What one engine step can do: the frame of a micro-operation, the acceptance, the completion, and the inversion of
`exec` and `step`. -/

namespace Sys2Proof.Machine

/-! ### The frame of a micro-operation -/

@[simp] theorem State.perform_life (s : State) (m : MicroOp) : (s.perform m).life = s.life := by
  cases m <;> simp [State.perform, State.microSet, State.microDelay, State.microSample]

@[simp] theorem State.perform_cfg (s : State) (m : MicroOp) : (s.perform m).cfg = s.cfg := by
  cases m <;> simp [State.perform, State.microSet, State.microDelay, State.microSample]

@[simp] theorem State.perform_guard (s : State) (m : MicroOp) : (s.perform m).guard = s.guard := by
  cases m <;> simp [State.perform, State.microSet, State.microDelay, State.microSample]

@[simp] theorem State.perform_fsm (s : State) (m : MicroOp) : (s.perform m).fsm = s.fsm := by
  cases m <;> simp [State.perform, State.microSet, State.microDelay, State.microSample]

@[simp] theorem State.perform_op (s : State) (m : MicroOp) : (s.perform m).op = s.op := by
  cases m <;> simp [State.perform, State.microSet, State.microDelay, State.microSample]

@[simp] theorem State.perform_ackReq (s : State) (m : MicroOp) : (s.perform m).ackReq = s.ackReq := by
  cases m <;> simp [State.perform, State.microSet, State.microDelay, State.microSample]

@[simp] theorem State.perform_sclMode (s : State) (m : MicroOp) : (s.perform m).sclMode = s.sclMode := by
  cases m <;> simp [State.perform, State.microSet, State.microDelay, State.microSample]

@[simp] theorem State.perform_sdaMode (s : State) (m : MicroOp) : (s.perform m).sdaMode = s.sdaMode := by
  cases m <;> simp [State.perform, State.microSet, State.microDelay, State.microSample]

@[simp] theorem State.perform_rspValid (s : State) (m : MicroOp) : (s.perform m).rspValid = s.rspValid := by
  cases m <;> simp [State.perform, State.microSet, State.microDelay, State.microSample]

@[simp] theorem State.perform_rspStatus (s : State) (m : MicroOp) : (s.perform m).rspStatus = s.rspStatus := by
  cases m <;> simp [State.perform, State.microSet, State.microDelay, State.microSample]

@[simp] theorem State.perform_rspData (s : State) (m : MicroOp) : (s.perform m).rspData = s.rspData := by
  cases m <;> simp [State.perform, State.microSet, State.microDelay, State.microSample]

@[simp] theorem State.perform_port (s : State) (m : MicroOp) : (s.perform m).port = s.port := by
  cases m <;> simp [State.perform, State.microSet, State.microDelay, State.microSample]

@[simp] theorem State.perform_owner (s : State) (m : MicroOp) : (s.perform m).owner = s.owner := by
  cases m <;> simp [State.perform, State.microSet, State.microDelay, State.microSample]

@[simp] theorem State.perform_callers (s : State) (m : MicroOp) : (s.perform m).callers = s.callers := by
  cases m <;> simp [State.perform, State.microSet, State.microDelay, State.microSample]

@[simp] theorem State.perform_params (s : State) (m : MicroOp) : (s.perform m).params = s.params := by
  cases m <;> simp [State.perform, State.microSet, State.microDelay, State.microSample]

@[simp] theorem State.perform_mpc (s : State) (m : MicroOp) : (s.perform m).mpc = s.mpc + 1#6 := by
  cases m <;> simp [State.perform, State.microSet, State.microDelay, State.microSample]

@[simp] theorem State.perform_trace (s : State) (m : MicroOp) : (s.perform m).trace = s.trace ++ [s.eventOf m] := by
  cases m <;> simp [State.perform, State.microSet, State.microDelay, State.microSample, State.eventOf, State.drawDrive]

/-- A micro-operation that samples draws one drive; the others draw nothing. -/
theorem State.perform_inputs (s : State) (m : MicroOp) :
    (s.perform m).inputs =
      match m with
      | .sampleAck => s.inputs.dropDrive
      | .sampleBit _ => s.inputs.dropDrive
      | _ => s.inputs := by
  cases m <;> simp [State.perform, State.microSet, State.microDelay, State.microSample]

/-- Only RECV's samples write SHIFT. -/
theorem State.perform_shift (s : State) (m : MicroOp) :
    (s.perform m).shift =
      match m with
      | .sampleBit k => setBit s.shift k s.sampleLevel
      | _ => s.shift := by
  cases m <;> simp [State.perform, State.microSet, State.microDelay, State.microSample]

/-- Only SEND's sample writes ACKBIT. -/
theorem State.perform_ackBit (s : State) (m : MicroOp) :
    (s.perform m).ackBit =
      match m with
      | .sampleAck => s.sampleLevel
      | _ => s.ackBit := by
  cases m <;> simp [State.perform, State.microSet, State.microDelay, State.microSample]

/-- A SAMPLE returns the engine's own drive and the environment's (R102). -/
theorem State.sampleLevel_eq (s : State) : s.sampleLevel = (s.sdaOut && s.inputs.nextDrive.sdaRel) := by
  simp [State.sampleLevel, State.sdaLine]

/-- Only a SET of a line writes its driver. -/
theorem State.driver_perform (s : State) (m : MicroOp) (l : Line) :
    (s.perform m).driver l =
      match m with
      | .set l' v => if l' = l then v else s.driver l
      | .setShiftBit k => if l = .sda then s.shift.getLsbD k.val else s.driver l
      | .setAckReq => if l = .sda then !s.ackReq else s.driver l
      | _ => s.driver l := by
  cases m with
  | set l' v => cases l' <;> cases l <;> rfl
  | _ => cases l <;> rfl

@[simp] theorem State.driver_putFsm (s : State) (f : FsmState) (l : Line) : (s.putFsm f).driver l = s.driver l := by
  cases l <;> rfl

@[simp] theorem State.driver_complete (s : State) (st : Status) (d : Byte) (l : Line) :
    (s.complete st d).driver l = s.driver l := by
  cases l <;> rfl

/-- A drive's draw leaves the host's draws alone. -/
@[simp] theorem Inputs.dropDrive_host (x : Inputs) :
    x.dropDrive.elapsed = x.elapsed ∧ x.dropDrive.alloc = x.alloc ∧ x.dropDrive.grant = x.grant ∧ x.dropDrive.stream = x.stream := by
  unfold Inputs.dropDrive
  split <;> simp

/-- No draw changes whose draws they are. -/
@[simp] theorem Inputs.dropElapsed_stream (x : Inputs) : x.dropElapsed.stream = x.stream := by
  unfold Inputs.dropElapsed; split <;> rfl

@[simp] theorem Inputs.dropAlloc_stream (x : Inputs) : x.dropAlloc.stream = x.stream := by
  unfold Inputs.dropAlloc; split <;> rfl

@[simp] theorem Inputs.dropGrant_stream (x : Inputs) : x.dropGrant.stream = x.stream := by
  unfold Inputs.dropGrant; split <;> rfl

/-! ### Inversion -/

/-- What follows a micro-operation: the completion, or the next FSM_STATE. -/
theorem State.afterMicro_cases (s : State) (table : List MicroRow) (status : State → Status) (data : State → Byte) :
    (s.mpc.toNat = table.length ∧ s.afterMicro table status data = s.complete (status s) (data s))
    ∨ (s.mpc.toNat ≠ table.length ∧ s.afterMicro table status data = s.putFsm (fsmAt table s.mpc.toNat)) := by
  unfold State.afterMicro
  split <;> simp_all

/-- Every command's meaning is the common engine step over its own table, load, status and data. -/
theorem exec_eq_commandStep (i : Instr) (s : State) :
    exec i s = commandStep i (tableOf (opOf i)) (loadOf i) (statusOf (opOf i)) (dataOf (opOf i)) s := by
  cases i <;> rfl

/-- The command in flight has the opcode OP. -/
@[simp] theorem opOf_inFlight (s : State) : opOf s.inFlight = s.op := by
  unfold State.inFlight; cases s.op <;> rfl

/-- Everything an engine step can do when it answers a next state: a micro-operation, a wait, or an acceptance. -/
theorem exec_cases {i : Instr} {s t : State} (h : exec i s = .next t) :
    (s.guard = true ∧ s.inFlight = i ∧ ∃ row, (tableOf s.op)[s.mpc.toNat]? = some row ∧
        t = (s.perform row.op).afterMicro (tableOf s.op) (statusOf s.op) (dataOf s.op))
    ∨ (s.guard = true ∧ s.inFlight ≠ i ∧ t = s)
    ∨ (s.guard = false ∧ s.life = .configured ∧ t = s.accept i (tableOf (opOf i)) (loadOf i)) := by
  rw [exec_eq_commandStep] at h
  unfold commandStep at h
  split at h
  · rename_i hg
    split at h
    · rename_i hi
      subst hi
      rw [opOf_inFlight] at h
      unfold microStep at h
      split at h
      · rename_i row hr
        injection h with h
        exact .inl ⟨hg, rfl, row, hr, h.symm⟩
      · cases h
    · rename_i hi
      injection h with h
      exact .inr (.inl ⟨hg, hi, h.symm⟩)
  · rename_i hg
    split at h
    · rename_i hl
      injection h with h
      exact .inr (.inr ⟨hg, hl, h.symm⟩)
    · cases h
    · cases h

/-- What the next step works on. -/
theorem pick_cases (s : State) :
    (s.guard = true ∧ s.pick = .run s.inFlight)
    ∨ (s.guard = false ∧ s.life = .configured ∧ ∃ w i, s.port = some w ∧ decode w = .ok i ∧ s.pick = .run i)
    ∨ (s.guard = false ∧ s.life = .configured ∧ ∃ w e, s.port = some w ∧ decode w = .error e ∧ s.pick = .illegal w)
    ∨ (s.guard = false ∧ (s.life ≠ .configured ∨ s.port = none) ∧ s.pick = .host) := by
  unfold State.pick
  cases hg : s.guard <;> cases hl : s.life <;> cases hp : s.port <;> simp
  rename_i w
  cases hd : decode w <;> simp

/-- Everything a step can do when it answers a next state. -/
theorem step_cases {s t : State} (h : step s = .next t) :
    (s.guard = true ∧ ∃ row, (tableOf s.op)[s.mpc.toNat]? = some row ∧
        t = (s.perform row.op).afterMicro (tableOf s.op) (statusOf s.op) (dataOf s.op))
    ∨ (s.guard = false ∧ s.life = .configured ∧ ∃ w i, s.port = some w ∧ decode w = .ok i ∧
        t = s.accept i (tableOf (opOf i)) (loadOf i))
    ∨ (s.guard = false ∧ s.life = .configured ∧ ∃ w e, s.port = some w ∧ decode w = .error e ∧ t = s.acceptIllegal w)
    ∨ (s.guard = false ∧ (s.life ≠ .configured ∨ s.port = none) ∧ hostStep s = .next t) := by
  unfold step at h
  rcases pick_cases s with ⟨hg, hp⟩ | ⟨hg, hl, w, i, hw, hd, hp⟩ | ⟨hg, hl, w, e, hw, hd, hp⟩ | ⟨hg, hl, hp⟩ <;> rw [hp] at h
  · rcases exec_cases h with ⟨-, -, row, hr, ht⟩ | ⟨-, hi, -⟩ | ⟨hg', -⟩
    · exact .inl ⟨hg, row, hr, ht⟩
    · exact absurd rfl hi
    · rw [hg] at hg'; cases hg'
  · rcases exec_cases h with ⟨hg', -⟩ | ⟨hg', -⟩ | ⟨-, -, ht⟩
    · rw [hg] at hg'; cases hg'
    · rw [hg] at hg'; cases hg'
    · exact .inr (.inl ⟨hg, hl, w, i, hw, hd, ht⟩)
  · injection h with h
    exact .inr (.inr (.inl ⟨hg, hl, w, e, hw, hd, h.symm⟩))
  · exact .inr (.inr (.inr ⟨hg, hl, h⟩))

/-- While GUARD = 1 a step performs the micro-operation MPC points to. -/
theorem step_of_row {s : State} {row : MicroRow} (hg : s.guard = true) (hr : (tableOf s.op)[s.mpc.toNat]? = some row) :
    step s = .next ((s.perform row.op).afterMicro (tableOf s.op) (statusOf s.op) (dataOf s.op)) := by
  have hp : s.pick = .run s.inFlight := by simp [State.pick, hg]
  simp [step, hp, exec_eq_commandStep, commandStep, hg, microStep, hr]

/-- With a free guard on a CONFIGURED bus every command is accepted. -/
theorem exec_of_ready {s : State} (i : Instr) (hg : s.guard = false) (hl : s.life = .configured) :
    exec i s = .next (s.accept i (tableOf (opOf i)) (loadOf i)) := by
  simp [exec_eq_commandStep, commandStep, hg, hl]

end Sys2Proof.Machine
end

