-- ==== Sys2Proof/Laws/Host.lean ====
section
/-! SUPPORT. What one host step can do: the inversions of `hostStep`, of a caller's step and of the lifecycle operations. -/

namespace Sys2Proof.Machine

theorem State.SameEngine.rfl' (s : State) : s.SameEngine s := by
  simp [State.SameEngine]

theorem State.SameEngine.trans' {a b c : State} (h : a.SameEngine b) (g : b.SameEngine c) : a.SameEngine c := by
  simp_all [State.SameEngine]

theorem State.setCaller_sameEngine (s : State) (k : Nat) (c : Caller) : s.SameEngine (s.setCaller k c) := by
  simp [State.SameEngine]

theorem State.present_sameEngine (s : State) (k : Nat) (c : Caller) (w : Cmd) : s.SameEngine (s.present k c w) := by
  simp [State.SameEngine]

theorem State.drawGrant_sameEngine (s : State) : s.SameEngine s.drawGrant := by
  simp [State.SameEngine]

/-- Everything INIT can do (R242). -/
theorem State.init_cases {s t : State} {a : Option (Nat × Nat × Nat)} {st : Status} (h : s.init a = .next (t, st)) :
    s.life = .unconfigured ∧
      ((t = s ∧ st = .configurationError)
      ∨ (t = s.drawAlloc ∧ st = .outOfResources)
      ∨ (∃ scl sda rate, a = some (scl, sda, rate) ∧ Params.tooWide s.params scl sda rate = false ∧ rate ≠ 0 ∧ scl ≠ sda
          ∧ s.inputs.nextAllocFails = false ∧ t = s.drawAlloc.initialise scl sda rate ∧ st = .ok)) := by
  unfold State.init at h
  split at h
  · rename_i hl
    refine ⟨hl, ?_⟩
    split at h
    · simp_all
    · rename_i scl sda rate
      split at h
      · simp_all
      · split at h
        · simp_all
        · split at h
          · simp_all
          · split at h
            · simp_all
            · injection h with h
              injection h with h1 h2
              exact .inr (.inr ⟨scl, sda, rate, rfl, Bool.eq_false_iff.2 ‹_›, ‹_›, ‹_›, Bool.eq_false_iff.2 ‹_›, h1.symm, h2.symm⟩)
  · cases h
  · cases h

/-- When TEARDOWN passes its check (R241, R245). -/
theorem State.teardownRefused_none {s : State} : s.teardownRefused = none ↔ s.life = .configured := by
  unfold State.teardownRefused; split <;> simp_all

/-- A TEARDOWN that begins. -/
theorem State.beginTeardown_cases {s u : State} {k : Nat} {c : Caller} (h : s.beginTeardown k c = .next u) :
    s.life = .configured ∧ u = s.setCaller k { c with tearingDown := true } := by
  unfold State.beginTeardown at h
  split at h
  · injection h with h; exact ⟨State.teardownRefused_none.1 ‹_›, h.symm⟩
  · cases h

/-- Everything TEARDOWN can do once it has passed its check (R245). -/
theorem State.teardown_cases {s t : State} {st : Status} (h : s.teardown = .next (t, st)) :
    s.life ≠ .unconfigured ∧ st = .ok ∧
      t = { ((s.releaseLine .scl).releaseLine .sda).unconfigurePins with life := .tornDown } := by
  unfold State.teardown at h
  split at h
  · simp_all
  · simp_all
  · cases h

/-- A lifecycle operation's outcome, handed to its caller. -/
theorem State.lifecycleReturns_next {k : Nat} {c : Caller} {ev : Status → HostEvent}
    {o : Host.Outcome (State × Status) Fault Refusal} {t : State} (h : State.lifecycleReturns k c ev o = .next t) :
    ∃ t0 st, o = .next (t0, st) ∧ t = t0.setCaller k (c.finish.note [ev st]) := by
  unfold State.lifecycleReturns at h
  split at h
  · injection h with h
    exact ⟨_, _, rfl, h.symm⟩
  · cases h
  · cases h

/-- Everything a TRANSFER's step can do when it answers a next state. -/
theorem State.transferStep_cases {s u : State} {k : Nat} {c : Caller} {t : Call} (h : s.transferStep k c t = .next u) :
    ((t.point = .readT0 ∨ t.point = .check) ∧
        u = s.drawElapsed.setCaller k
          { (c.note [.now (s.nextNow c)]) with clock := s.nextNow c, call := some (t.onNow (s.nextNow c)) })
    ∨ (t.point = .backoff ∧
        u = s.setCaller k { (c.note [.waitUs Config.backoffUs]) with call := some t.afterBackoff })
    ∨ (t.point.issues = true ∧ t.indexOk = true ∧ u = s.present k (c.note t.readEvents) (encode t.command)) := by
  unfold State.transferStep at h
  split at h
  case h_1 | h_2 | h_3 => simp_all
  all_goals
    split at h
    · injection h with h
      exact .inr (.inr ⟨by simp_all [Point.issues], ‹_›, h.symm⟩)
    · cases h

/-- A TRANSFER that begins, or is turned away. -/
theorem State.beginTransfer_cases {s u : State} {k : Nat} {c : Caller} {bus : Bool} {dev : Option Device}
    {req : Option Request} (h : s.beginTransfer k c bus dev req = .next u) :
    (∃ d r, validate s.params bus dev req = .valid d r ∧
        u = s.setCaller k { c.finish with call := some (Call.begin d r) })
    ∨ (validate s.params bus dev req = .invalid ∧
        u = s.setCaller k (c.finish.note [.transferReturned .invalidArgument (bufferOf req)])) := by
  unfold State.beginTransfer at h
  split at h
  all_goals simp_all

/-- A validated call (R162, R163). -/
theorem validate_valid {p : Params} {bus : Bool} {dev : Option Device} {req : Option Request} {d : Device} {r : Request}
    (h : validate p bus dev req = .valid d r) :
    bus = true ∧ dev = some d ∧ req = some r ∧ r.len ≠ 0 ∧ d.dir = r.dir ∧ r.len ≤ p.maxLen := by
  unfold validate at h
  split at h
  · split at h
    · cases h
    · split at h
      · cases h
      · split at h
        · cases h
        · injection h with h1 h2
          subst h1 h2
          exact ⟨rfl, rfl, rfl, ‹_›, by simp_all, by omega⟩
  · cases h

/-- Everything a response can do to a caller. -/
theorem Caller.onResponse_cases {c c' : Caller} {st : Status} {d : Byte} (h : c.onResponse st d = .next c') :
    (c.call = none ∧ c' = c.finish.note [.response st d])
    ∨ (∃ t t', c.call = some t ∧ t.indexOk = true ∧ t.onResponse st d = .goes t' ∧
        c' = { (c.note (.response st d :: t.writeEvents d)) with call := some t' })
    ∨ (∃ t r buf, c.call = some t ∧ t.indexOk = true ∧ t.onResponse st d = .returns r buf ∧
        c' = { (c.note [.response st d, .transferReturned r buf]) with call := none }) := by
  unfold Caller.onResponse at h
  split at h
  · simp_all
  · split at h
    · split at h
      · simp_all
      · simp_all
    · cases h

/-- Everything a caller's step can do when it answers a next state. -/
theorem State.callerStep_cases {s u : State} {k : Nat} (h : s.callerStep k = .next u) :
    u = s
    ∨ ∃ c, s.callers[k]? = some c ∧
      ((∃ t, c.call = some t ∧ s.transferStep k c t = .next u)
      ∨ (c.call = none ∧ ∃ o rest, c.pending = o :: rest ∧
          ((∃ w, o = .issue w ∧ u = s.present k c w)
          ∨ (∃ a t0 st, o = .init a ∧ s.init a = .next (t0, st) ∧
              u = t0.setCaller k (c.finish.note [.initReturned st]))
          ∨ (o = .teardown ∧ c.tearingDown = false ∧ s.life = .configured ∧ u = s.setCaller k { c with tearingDown := true })
          ∨ (∃ t0 st, o = .teardown ∧ c.tearingDown = true ∧ s.teardown = .next (t0, st) ∧
              u = t0.setCaller k (({ c with tearingDown := false } : Caller).finish.note [.teardownReturned st]))
          ∨ (∃ bus dev req, o = .transfer bus dev req ∧ s.beginTransfer k c bus dev req = .next u)))) := by
  unfold State.callerStep at h
  split at h
  · injection h with h; exact .inl h.symm
  · rename_i c hc
    split at h
    · exact .inr ⟨c, hc, .inl ⟨_, ‹_›, h⟩⟩
    · rename_i hcall
      split at h
      · injection h with h; exact .inl h.symm
      · rename_i w rest ht
        injection h with h
        exact .inr ⟨c, hc, .inr ⟨hcall, _, _, ht, .inl ⟨_, rfl, h.symm⟩⟩⟩
      · rename_i a rest ht
        obtain ⟨t0, st, ho, hu⟩ := State.lifecycleReturns_next h
        exact .inr ⟨c, hc, .inr ⟨hcall, _, _, ht, .inr (.inl ⟨_, _, _, rfl, ho, hu⟩)⟩⟩
      · rename_i rest ht
        split at h
        · obtain ⟨t0, st, ho, hu⟩ := State.lifecycleReturns_next h
          exact .inr ⟨c, hc, .inr ⟨hcall, _, _, ht, .inr (.inr (.inr (.inl ⟨_, _, rfl, ‹_›, ho, hu⟩)))⟩⟩
        · obtain ⟨hl, hu⟩ := State.beginTeardown_cases h
          exact .inr ⟨c, hc, .inr ⟨hcall, _, _, ht, .inr (.inr (.inl ⟨rfl, Bool.eq_false_iff.2 ‹_›, hl, hu⟩))⟩⟩
      · rename_i bus dev req rest ht
        exact .inr ⟨c, hc, .inr ⟨hcall, _, _, ht, .inr (.inr (.inr (.inr ⟨_, _, _, rfl, h⟩)))⟩⟩

/-- Everything a response's collection can do. -/
theorem State.collect_cases {s u : State} {k : Nat} (h : s.collect k = .next u) :
    u = { s with owner := none }
    ∨ ∃ c c', s.callers[k]? = some c ∧ c.onResponse s.rspStatus s.rspData = .next c' ∧
      u = { (s.setCaller k c') with owner := none } := by
  unfold State.collect at h
  split at h
  · injection h with h; exact .inl h.symm
  · rename_i c hc
    split at h
    · injection h with h
      exact .inr ⟨c, _, hc, ‹_›, h.symm⟩
    · cases h
    · cases h

/-- Everything a host step can do: a response is collected, a caller that can move does, or nothing happens. -/
theorem hostStep_cases {s u : State} (h : hostStep s = .next u) :
    (∃ k, s.owner = some k ∧ s.rspValid = true ∧ s.port = none ∧ s.guard = false ∧ s.collect k = .next u)
    ∨ (∃ k s0, k ∈ s.movers ∧ (s0 = s ∨ s0 = s.drawGrant) ∧ s0.callerStep k = .next u)
    ∨ u = s := by
  have grant : s.grantStep = .next u →
      (∃ k s0, k ∈ s.movers ∧ (s0 = s ∨ s0 = s.drawGrant) ∧ s0.callerStep k = .next u) ∨ u = s := by
    intro h
    unfold State.grantStep at h
    split at h
    · unfold State.nobodyMoves at h
      split at h
      · split at h
        · cases h
        · cases h
        · injection h with h; exact .inr h.symm
      · injection h with h; exact .inr h.symm
    · rename_i k hm
      exact .inl ⟨k, s, by simp [hm], .inl rfl, h⟩
    · rename_i k ks hks hm
      refine .inl ⟨_, _, ?_, .inr rfl, h⟩
      rw [hm, List.getD_eq_getElem _ _ (Nat.mod_lt _ (by simp))]
      exact List.getElem_mem _
  unfold hostStep at h
  split at h
  · rename_i k ho
    split at h
    · rename_i hc
      simp only [Bool.and_eq_true, Bool.not_eq_true', Option.isNone_iff_eq_none] at hc
      exact .inl ⟨k, ho, hc.1.1, hc.1.2, hc.2, h⟩
    · exact .inr (grant h)
  · exact .inr (grant h)

/-- A caller that may present a word finds `cmd_ready`, an empty port and no response to collect (R76, R209). -/
theorem State.canMove_of_wantsBus {s : State} {k : Nat} {c : Caller} (hw : c.wantsBus = true) (h : s.canMove k c = true) :
    s.cmdReady = true ∧ s.port = none ∧ s.owner = none := by
  unfold State.canMove at h
  split at h
  · cases h
  · simp_all [Option.isNone_iff_eq_none]

/-- A caller with a call that issues, or with a word to issue, wants the bus. -/
theorem Caller.wantsBus_of_call {c : Caller} {t : Call} (hc : c.call = some t) : c.wantsBus = t.point.issues := by
  simp [Caller.wantsBus, hc]

/-- What a caller's step does to the owner and the port: nothing, or it presents a word, which it may only do if it wants the bus. -/
theorem State.callerStep_owner {s u : State} {k : Nat} (h : s.callerStep k = .next u) :
    (u.owner = s.owner ∧ u.port = s.port)
    ∨ ∃ c, s.callers[k]? = some c ∧ c.wantsBus = true ∧ u.owner = some k := by
  rcases State.callerStep_cases h with rfl | ⟨c, hc, ⟨t, ht, h⟩ | ⟨hn, o, rest, ho, ⟨w, rfl, rfl⟩ | ⟨a, t0, st, -, hi, rfl⟩ |
    ⟨-, -, -, rfl⟩ | ⟨t0, st, -, -, ht, rfl⟩ | ⟨bus, dev, req, -, h⟩⟩⟩
  · exact .inl ⟨rfl, rfl⟩
  · rcases State.transferStep_cases h with ⟨-, rfl⟩ | ⟨-, rfl⟩ | ⟨hp, -, rfl⟩
    · exact .inl ⟨rfl, rfl⟩
    · exact .inl ⟨rfl, rfl⟩
    · exact .inr ⟨c, hc, by rw [Caller.wantsBus_of_call ht, hp], rfl⟩
  · exact .inr ⟨c, hc, by simp [Caller.wantsBus, hn, ho], rfl⟩
  · obtain ⟨-, ⟨rfl, -⟩ | ⟨rfl, -⟩ | ⟨scl, sda, rate, -, -, -, -, -, rfl, -⟩⟩ := State.init_cases hi <;> exact .inl ⟨rfl, rfl⟩
  · exact .inl ⟨rfl, rfl⟩
  · obtain ⟨-, -, rfl⟩ := State.teardown_cases ht; exact .inl ⟨rfl, rfl⟩
  · rcases State.beginTransfer_cases h with ⟨d, r, -, rfl⟩ | ⟨-, rfl⟩ <;> exact .inl ⟨rfl, rfl⟩

/-- What a host step does to the engine: nothing, or INIT's effect, or TEARDOWN's effect. -/
theorem hostStep_engine {s u : State} (h : hostStep s = .next u) :
    s.SameEngine u
    ∨ (∃ scl sda rate, s.life = .unconfigured ∧ Params.tooWide s.params scl sda rate = false ∧ rate ≠ 0 ∧ scl ≠ sda ∧
        (s.initialise scl sda rate).SameEngine u)
    ∨ (s.life ≠ .unconfigured ∧
        State.SameEngine { ((s.releaseLine .scl).releaseLine .sda).unconfigurePins with life := .tornDown } u) := by
  rcases hostStep_cases h with ⟨k, -, -, -, -, h⟩ | ⟨k, s0, -, hs0, h⟩ | rfl
  · rcases State.collect_cases h with rfl | ⟨c, c', -, -, rfl⟩ <;> exact .inl (by simp [State.SameEngine])
  · have e0 : s.SameEngine s0 := by
      rcases hs0 with rfl | rfl <;> simp [State.SameEngine]
    have ep : s0.params = s.params := by rcases hs0 with rfl | rfl <;> rfl
    have el : s0.life = s.life := e0.1
    rcases State.callerStep_cases h with rfl | ⟨c, -, ⟨t, -, h⟩ | ⟨-, o, rest, -, ⟨w, -, rfl⟩ | ⟨a, t0, st, -, hi, rfl⟩ |
      ⟨-, -, -, rfl⟩ | ⟨t0, st, -, -, ht, rfl⟩ | ⟨bus, dev, req, -, h⟩⟩⟩
    · exact .inl e0
    · refine .inl (e0.trans' ?_)
      rcases State.transferStep_cases h with ⟨-, rfl⟩ | ⟨-, rfl⟩ | ⟨-, -, rfl⟩ <;> simp [State.SameEngine]
    · exact .inl (e0.trans' (State.present_sameEngine ..))
    · obtain ⟨hl, ⟨rfl, -⟩ | ⟨rfl, -⟩ | ⟨scl, sda, rate, -, hw, hr, hne, -, rfl, -⟩⟩ := State.init_cases hi
      · exact .inl (e0.trans' (State.setCaller_sameEngine ..))
      · exact .inl (e0.trans' (by simp [State.SameEngine]))
      · refine .inr (.inl ⟨scl, sda, rate, el ▸ hl, ep ▸ hw, hr, hne, ?_⟩)
        rcases hs0 with rfl | rfl <;> simp [State.SameEngine, State.initialise, State.releaseLine]
    · exact .inl (e0.trans' (State.setCaller_sameEngine ..))
    · obtain ⟨hl, -, rfl⟩ := State.teardown_cases ht
      refine .inr (.inr ⟨el ▸ hl, ?_⟩)
      rcases hs0 with rfl | rfl <;> simp [State.SameEngine, State.releaseLine]
    · refine .inl (e0.trans' ?_)
      rcases State.beginTransfer_cases h with ⟨d, r, -, rfl⟩ | ⟨-, rfl⟩ <;> exact State.setCaller_sameEngine ..
  · exact .inl (.rfl' _)

/-- A host step does not change whose draws the bus takes. -/
theorem hostStep_stream {s u : State} (h : hostStep s = .next u) : u.inputs.stream = s.inputs.stream := by
  rcases hostStep_cases h with ⟨k, -, -, -, -, h⟩ | ⟨k, s0, -, hs0, h⟩ | rfl
  · rcases State.collect_cases h with rfl | ⟨c, c', -, -, rfl⟩ <;> rfl
  · have es : s0.inputs.stream = s.inputs.stream := by
      rcases hs0 with rfl | rfl
      · rfl
      · exact Inputs.dropGrant_stream _
    rw [← es]
    rcases State.callerStep_cases h with rfl | ⟨c, -, ⟨t, -, h⟩ | ⟨-, o, rest, -, ⟨w, -, rfl⟩ | ⟨a, t0, st, -, hi, rfl⟩ |
      ⟨-, -, -, rfl⟩ | ⟨t0, st, -, -, ht, rfl⟩ | ⟨bus, dev, req, -, h⟩⟩⟩
    · rfl
    · rcases State.transferStep_cases h with ⟨-, rfl⟩ | ⟨-, rfl⟩ | ⟨-, -, rfl⟩
      · exact Inputs.dropElapsed_stream _
      · rfl
      · rfl
    · rfl
    · obtain ⟨-, ⟨rfl, -⟩ | ⟨rfl, -⟩ | ⟨scl, sda, rate, -, -, -, -, -, rfl, -⟩⟩ := State.init_cases hi
      · rfl
      · exact Inputs.dropAlloc_stream _
      · exact Inputs.dropAlloc_stream _
    · rfl
    · obtain ⟨-, -, rfl⟩ := State.teardown_cases ht; rfl
    · rcases State.beginTransfer_cases h with ⟨d, r, -, rfl⟩ | ⟨-, rfl⟩ <;> rfl
  · rfl

/-- A caller's step changes no number of callers. -/
theorem State.callerStep_length {s u : State} {k : Nat} (h : s.callerStep k = .next u) : u.callers.length = s.callers.length := by
  rcases State.callerStep_cases h with rfl | ⟨c, -, ⟨t, -, h⟩ | ⟨-, o, rest, -, ⟨w, -, rfl⟩ | ⟨a, t0, st, -, hi, rfl⟩ |
    ⟨-, -, -, rfl⟩ | ⟨t0, st, -, -, ht, rfl⟩ | ⟨bus, dev, req, -, h⟩⟩⟩
  · rfl
  · rcases State.transferStep_cases h with ⟨-, rfl⟩ | ⟨-, rfl⟩ | ⟨-, -, rfl⟩ <;> exact List.length_set
  · exact List.length_set
  · obtain ⟨-, ⟨rfl, -⟩ | ⟨rfl, -⟩ | ⟨scl, sda, rate, -, -, -, -, -, rfl, -⟩⟩ := State.init_cases hi <;> exact List.length_set
  · exact List.length_set
  · obtain ⟨-, -, rfl⟩ := State.teardown_cases ht; exact List.length_set
  · rcases State.beginTransfer_cases h with ⟨d, r, -, rfl⟩ | ⟨-, rfl⟩ <;> exact List.length_set

/-- A host step changes no number of callers (R9). -/
theorem hostStep_length {s u : State} (h : hostStep s = .next u) : u.callers.length = s.callers.length := by
  rcases hostStep_cases h with ⟨k, -, -, -, -, h⟩ | ⟨k, s0, -, hs0, h⟩ | rfl
  · rcases State.collect_cases h with rfl | ⟨c, c', -, -, rfl⟩
    · rfl
    · exact List.length_set
  · rw [State.callerStep_length h]
    rcases hs0 with rfl | rfl <;> rfl
  · rfl

/-- A host step changes no parameter. -/
theorem hostStep_params {s u : State} (h : hostStep s = .next u) : u.params = s.params := by
  rcases hostStep_cases h with ⟨k, -, -, -, -, h⟩ | ⟨k, s0, -, hs0, h⟩ | rfl
  · rcases State.collect_cases h with rfl | ⟨c, c', -, -, rfl⟩ <;> rfl
  · have ep : s0.params = s.params := by rcases hs0 with rfl | rfl <;> rfl
    rw [← ep]
    rcases State.callerStep_cases h with rfl | ⟨c, -, ⟨t, -, h⟩ | ⟨-, o, rest, -, ⟨w, -, rfl⟩ | ⟨a, t0, st, -, hi, rfl⟩ |
      ⟨-, -, -, rfl⟩ | ⟨t0, st, -, -, ht, rfl⟩ | ⟨bus, dev, req, -, h⟩⟩⟩
    · rfl
    · rcases State.transferStep_cases h with ⟨-, rfl⟩ | ⟨-, rfl⟩ | ⟨-, -, rfl⟩ <;> rfl
    · rfl
    · obtain ⟨-, ⟨rfl, -⟩ | ⟨rfl, -⟩ | ⟨scl, sda, rate, -, -, -, -, -, rfl, -⟩⟩ := State.init_cases hi <;> rfl
    · rfl
    · obtain ⟨-, -, rfl⟩ := State.teardown_cases ht; rfl
    · rcases State.beginTransfer_cases h with ⟨d, r, -, rfl⟩ | ⟨-, rfl⟩ <;> rfl
  · rfl

end Sys2Proof.Machine
end

