-- ==== Sys2Proof/Laws/Run.lean ====
section
/-! SUPPORT. Runs: a whole command is its table's micro-operations performed one after the other, then its completion. -/

namespace Sys2Proof.Machine

@[simp] theorem run_zero (s : State) : run 0 s = .next s := rfl

/-- A run whose first step answers a next state goes on from there. -/
theorem run_succ {s t : State} (h : step s = .next t) (k : Nat) : run (k + 1) s = run k t := by
  simp only [run, Host.Core.run]
  rw [show Sys2Proof.core.step s = .next t from h]

/-- A run of `j + k` steps is `j` steps and then `k`. -/
theorem run_add {s t : State} {j : Nat} (h : run j s = .next t) (k : Nat) : run (j + k) s = run k t := by
  induction j generalizing s with
  | zero =>
    injection h with h
    subst h
    rw [Nat.zero_add]
  | succ j ih =>
    cases hs : step s with
    | next u =>
      rw [run_succ hs] at h
      rw [Nat.succ_add, run_succ hs]
      exact ih h
    | fault f =>
      simp only [run, Host.Core.run] at h
      rw [show Sys2Proof.core.step s = .fault f from hs] at h
      cases h
    | refused r =>
      simp only [run, Host.Core.run] at h
      rw [show Sys2Proof.core.step s = .refused r from hs] at h
      cases h

/-- The rows of a table performed one after the other. -/
def State.performRows (s : State) (rows : List MicroRow) : State :=
  rows.foldl (fun t r => t.perform r.op) s

@[simp] theorem State.performRows_nil (s : State) : s.performRows [] = s := rfl

@[simp] theorem State.performRows_cons (s : State) (r : MicroRow) (rows : List MicroRow) :
    s.performRows (r :: rows) = (s.perform r.op).performRows rows := rfl

/-- No micro-operation reads or writes FSM_STATE. -/
theorem State.perform_putFsm (s : State) (f : FsmState) (m : MicroOp) :
    (s.putFsm f).perform m = (s.perform m).putFsm f := by
  cases m with
  | set l v => cases l <;> rfl
  | _ => rfl

theorem State.performRows_putFsm (s : State) (f : FsmState) (rows : List MicroRow) :
    (s.putFsm f).performRows rows = (s.performRows rows).putFsm f := by
  induction rows generalizing s with
  | nil => rfl
  | cons r rows ih =>
    rw [State.performRows_cons, State.performRows_cons, State.perform_putFsm]
    exact ih (s.perform r.op)

/-- Completion does not depend on FSM_STATE. -/
theorem State.complete_putFsm (s : State) (f : FsmState) (st : Status) (d : Byte) :
    (s.putFsm f).complete st d = s.complete st d := rfl

theorem statusOf_putFsm (o : Op) (s : State) (f : FsmState) : statusOf o (s.putFsm f) = statusOf o s := by
  cases o <;> rfl

theorem dataOf_putFsm (o : Op) (s : State) (f : FsmState) : dataOf o (s.putFsm f) = dataOf o s := by
  cases o <;> rfl

theorem lengthOf_lt (o : Op) : lengthOf o < 64 := by
  cases o <;> decide

/-- At a row of its table MPC is within it, and its next value is one more. -/
theorem mpc_succ {s : State} {row : MicroRow} (hr : (tableOf s.op)[s.mpc.toNat]? = some row) :
    (s.mpc + 1#6).toNat = s.mpc.toNat + 1 ∧ s.mpc.toNat < lengthOf s.op := by
  have h : s.mpc.toNat < lengthOf s.op := (List.getElem?_eq_some_iff.1 hr).1
  have := lengthOf_lt s.op
  refine ⟨?_, h⟩
  rw [BitVec.toNat_add]
  exact Nat.mod_eq_of_lt (by simp only [BitVec.toNat_ofNat]; omega)

/-- What the rows of a table never write. -/
theorem State.performRows_frame (rows : List MicroRow) (s : State) :
    (s.performRows rows).life = s.life ∧ (s.performRows rows).cfg = s.cfg ∧ (s.performRows rows).guard = s.guard
      ∧ (s.performRows rows).op = s.op ∧ (s.performRows rows).ackReq = s.ackReq ∧ (s.performRows rows).sclMode = s.sclMode
      ∧ (s.performRows rows).sdaMode = s.sdaMode ∧ (s.performRows rows).port = s.port ∧ (s.performRows rows).owner = s.owner
      ∧ (s.performRows rows).callers = s.callers ∧ (s.performRows rows).params = s.params := by
  induction rows generalizing s with
  | nil => simp
  | cons r rows ih => simp [ih]

/-- Each row advances MPC by one. -/
theorem State.performRows_mpc (rows : List MicroRow) (s : State) :
    (s.performRows rows).mpc = s.mpc + BitVec.ofNat 6 rows.length := by
  induction rows generalizing s with
  | nil => simp
  | cons r rows ih =>
    rw [State.performRows_cons, ih, State.perform_mpc, BitVec.add_assoc, List.length_cons, Nat.add_comm, BitVec.ofNat_add]

/-- The steps from a micro-operation to the command's completion, both included. -/
theorem run_to_completion {s : State} {before rows : List MicroRow} (hg : s.guard = true)
    (ht : tableOf s.op = before ++ rows) (hm : s.mpc.toNat = before.length) (hr : rows ≠ []) :
    run rows.length s =
      .next ((s.performRows rows).complete (statusOf s.op (s.performRows rows)) (dataOf s.op (s.performRows rows))) := by
  induction rows generalizing s before with
  | nil => exact absurd rfl hr
  | cons r rows ih =>
    have hlen : before.length + (rows.length + 1) < 64 := by
      have := lengthOf_lt s.op
      rw [lengthOf, ht] at this
      simpa using this
    have hrow : (tableOf s.op)[s.mpc.toNat]? = some r := by simp [ht, hm]
    have hmpc : (s.mpc + 1#6).toNat = before.length + 1 := by
      rw [BitVec.toNat_add, hm]
      exact Nat.mod_eq_of_lt (by simp only [BitVec.toNat_ofNat]; omega)
    rw [List.length_cons, run_succ (step_of_row hg hrow)]
    by_cases hn : rows = []
    · subst hn
      have : (s.perform r.op).mpc.toNat = (tableOf s.op).length := by simp [hmpc, ht]
      rw [State.afterMicro, if_pos this]
      rfl
    · have hne : (s.perform r.op).mpc.toNat ≠ (tableOf s.op).length := by
        have := List.length_pos_iff.2 hn
        rw [State.perform_mpc, hmpc, ht]
        simp only [List.length_append, List.length_cons]
        omega
      rw [State.afterMicro, if_neg hne]
      have h := ih (s := (s.perform r.op).putFsm (fsmAt (tableOf s.op) (s.perform r.op).mpc.toNat))
        (before := before ++ [r]) (by simpa using hg) (by simp [ht]) (by simp only [State.putFsm_mpc, State.perform_mpc, hmpc, List.length_append, List.length_singleton]) hn
      rw [h, State.performRows_putFsm, State.complete_putFsm, statusOf_putFsm, dataOf_putFsm]
      simp only [State.putFsm_op, State.perform_op, State.performRows_cons]

/-- A whole command from its acceptance on: `length` steps. -/
theorem run_command {s : State} (hg : s.guard = true) (hm : s.mpc = 0#6) :
    run (lengthOf s.op) s =
      .next ((s.performRows (tableOf s.op)).complete (statusOf s.op (s.performRows (tableOf s.op)))
        (dataOf s.op (s.performRows (tableOf s.op)))) :=
  run_to_completion (before := []) hg rfl (by simp [hm]) (by cases s.op <;> simp [tableOf, startTable, stopTable, sendTable, recvTable, wireOrder, sendBitRows])

/-- What an acceptance leaves: the guard held, OP, MPC and FSM_STATE set up, the operand loaded, the lines untouched. -/
theorem State.accept_fields (s : State) (i : Instr) :
    let a := s.accept i (tableOf (opOf i)) (loadOf i)
    a.guard = true ∧ a.op = opOf i ∧ a.mpc = 0#6 ∧ a.fsm = fsmAt (tableOf (opOf i)) 0 ∧ a.rspValid = false ∧ a.port = none
      ∧ a.trace = s.trace ++ [.accept (encode i)] ∧ a.inputs = s.inputs.afterAcceptance ∧ a.sclOut = s.sclOut
      ∧ a.sdaOut = s.sdaOut ∧ a.env = s.env ∧ a.life = s.life ∧ a.cfg = s.cfg ∧ a.ackBit = s.ackBit
      ∧ a.sclMode = s.sclMode ∧ a.sdaMode = s.sdaMode ∧ a.owner = s.owner ∧ a.callers = s.callers ∧ a.params = s.params := by
  cases i <;> simp [State.accept, loadOf, opOf, Inputs.afterAcceptance]

/-- The steps over some rows of a table that are not its last: the rows performed, FSM_STATE that of the next row. -/
theorem run_rows {s : State} {before mid rows : List MicroRow} (hg : s.guard = true)
    (ht : tableOf s.op = before ++ (mid ++ rows)) (hm : s.mpc.toNat = before.length) (hr : rows ≠ [])
    (hf : s.fsm = fsmAt (tableOf s.op) s.mpc.toNat) :
    run mid.length s =
      .next ((s.performRows mid).putFsm (fsmAt (tableOf s.op) (before.length + mid.length))) := by
  induction mid generalizing s before with
  | nil =>
    simp only [List.length_nil, run_zero, State.performRows_nil, Nat.add_zero, ← hm, ← hf]
    rfl
  | cons r mid ih =>
    have hrow : (tableOf s.op)[s.mpc.toNat]? = some r := by simp [ht, hm]
    obtain ⟨hmpc, -⟩ := mpc_succ hrow
    have hne : (s.perform r.op).mpc.toNat ≠ (tableOf s.op).length := by
      have := List.length_pos_iff.2 hr
      rw [State.perform_mpc, hmpc, ht, hm]
      simp only [List.length_append, List.length_cons]
      omega
    rw [List.length_cons, run_succ (step_of_row hg hrow), State.afterMicro, if_neg hne]
    have h := ih (s := (s.perform r.op).putFsm (fsmAt (tableOf s.op) (s.perform r.op).mpc.toNat))
      (before := before ++ [r]) (by simpa using hg) (by simp [ht]) (by simp [hmpc, hm]) (by simp)
    rw [h, State.performRows_putFsm]
    simp [State.putFsm, Nat.add_assoc, Nat.add_comm 1]

/-- `k` steps into a command, from its acceptance on. -/
theorem run_into_command {s : State} (i : Instr) {k : Nat} (hk : k < lengthOf (opOf i)) :
    run k (s.accept i (tableOf (opOf i)) (loadOf i)) =
      .next (((s.accept i (tableOf (opOf i)) (loadOf i)).performRows ((tableOf (opOf i)).take k)).putFsm
        (fsmAt (tableOf (opOf i)) k)) := by
  obtain ⟨hg, ho, hm, hf, -⟩ := s.accept_fields i
  have hlen : ((tableOf (opOf i)).take k).length = k := by
    rw [List.length_take]
    exact Nat.min_eq_left (Nat.le_of_lt hk)
  have h := run_rows (s := s.accept i (tableOf (opOf i)) (loadOf i)) (before := []) (mid := (tableOf (opOf i)).take k)
    (rows := (tableOf (opOf i)).drop k) hg (by simp [ho]) (by simp [hm])
    (by intro h; rw [List.drop_eq_nil_iff] at h; exact absurd hk (Nat.not_lt.2 h)) (by rw [ho, hm, hf]; rfl)
  rw [hlen] at h
  simpa [ho] using h

/-- A whole command: its acceptance, then its table and its completion. -/
theorem exec_run {s : State} (i : Instr) (hg : s.guard = false) (hl : s.life = .configured) :
    let a := s.accept i (tableOf (opOf i)) (loadOf i)
    let z := a.performRows (tableOf (opOf i))
    exec i s = .next a ∧ run (lengthOf (opOf i)) a = .next (z.complete (statusOf (opOf i) z) (dataOf (opOf i) z)) := by
  intro a z
  have h := s.accept_fields i
  refine ⟨exec_of_ready i hg hl, ?_⟩
  have := run_command (s := a) h.1 h.2.2.1
  rwa [show a.op = opOf i from h.2.1] at this

end Sys2Proof.Machine
end

