-- ==== Sys2Proof/Laws/Agents.lean ====
section
/-! SUPPORT. What one agent's step can do, and that it loses no response. -/

namespace Sys2Proof.Machine

/-- Everything a step of caller `k` can do: nothing, collect its response, or take an action it can take. -/
theorem State.stepOfCaller_cases {s u : State} {k : Nat} (h : s.stepOfCaller k = .next u) :
    u = s
    ∨ (s.owner = some k ∧ s.rspValid = true ∧ s.port = none ∧ s.guard = false ∧ s.collect k = .next u)
    ∨ ∃ c, s.callers[k]? = some c ∧ s.owner ≠ some k ∧ s.canMove k c = true ∧ s.callerStep k = .next u := by
  unfold State.stepOfCaller at h
  split at h
  · injection h with h; exact .inl h.symm
  · split at h
    · split at h
      · simp_all [Option.isNone_iff_eq_none]
      · injection h with h; exact .inl h.symm
    · split at h
      · exact .inr (.inr ⟨_, ‹_›, ‹_›, ‹_›, h⟩)
      · injection h with h; exact .inl h.symm

/-- The engine's step changes no owner: a response stays its caller's (R209). -/
theorem State.engineStep_owner {s u : State} (h : s.engineStep = .next u) : u.owner = s.owner := by
  unfold State.engineStep at h
  split at h
  · rcases exec_cases h with ⟨-, -, row, -, rfl⟩ | ⟨-, -, rfl⟩ | ⟨-, -, rfl⟩
    · rcases State.afterMicro_cases (s.perform row.op) (tableOf s.op) (statusOf s.op) (dataOf s.op) with ⟨-, e⟩ | ⟨-, e⟩ <;>
        rw [e] <;> simp [State.complete]
    · rfl
    · exact (s.accept_fields _).2.2.2.2.2.2.2.2.2.2.2.2.2.2.2.2.1
  · injection h with h; rw [← h]; simp [State.acceptIllegal]
  · injection h with h; rw [← h]

/-- A caller that moves while another caller's command or response is outstanding presents nothing (R76, R209). -/
theorem State.callerStep_keeps_owner {s u : State} {j k : Nat} {c : Caller} (ho : s.owner = some k) (hc : s.callers[j]? = some c)
    (hm : s.canMove j c = true) (h : s.callerStep j = .next u) : u.owner = some k := by
  rcases State.callerStep_owner h with ⟨e, -⟩ | ⟨c', hc', hw, -⟩
  · rw [e, ho]
  · rw [hc] at hc'; injection hc' with hc'; subst hc'
    rw [(State.canMove_of_wantsBus hw hm).2.2] at ho; cases ho

end Sys2Proof.Machine
end

