-- ==== Sys2Proof/Laws/Memory.lean ====
section
/-! SUPPORT. The transfer buffer: a read after a write, and that every operation keeps the canonical form and the bound. -/

namespace Sys2Proof

/-- The canonical form as propositions. -/
theorem Memory.wf_iff (m : Memory) :
    Memory.wf m = true ↔ m.Pairwise (fun a b => a.1 < b.1) ∧ ∀ c ∈ m, c.2 ≠ Memory.unlisted := by
  simp [Memory.wf]

/-- A listed address after a write was listed before, or is the one written. -/
theorem Memory.mem_write {m : Memory} {i : Nat} {v : Byte} {c : Host.Cell} (h : c ∈ Memory.write m i v) :
    c ∈ m ∨ (c = (i, v) ∧ v ≠ Memory.unlisted) := by
  induction m with
  | nil =>
    unfold Memory.write at h
    split at h
    · simp at h
    · simp_all
  | cons x m ih =>
    obtain ⟨a, b⟩ := x
    unfold Memory.write at h
    split at h
    · split at h
      · exact .inl h
      · rcases List.mem_cons.1 h with h | h
        · exact .inr ⟨h, by assumption⟩
        · exact .inl h
    · split at h
      · split at h
        · exact .inl (List.mem_cons_of_mem _ h)
        · rcases List.mem_cons.1 h with h | h
          · exact .inr ⟨h, by assumption⟩
          · exact .inl (List.mem_cons_of_mem _ h)
      · rcases List.mem_cons.1 h with h | h
        · exact .inl (h ▸ List.mem_cons_self ..)
        · exact (ih h).imp (List.mem_cons_of_mem _) id

/-- A write keeps the canonical form. -/
theorem Memory.write_wf {m : Memory} (h : Memory.wf m = true) (i : Nat) (v : Byte) :
    Memory.wf (Memory.write m i v) = true := by
  rw [Memory.wf_iff] at h ⊢
  refine ⟨?_, fun c hc => ?_⟩
  · obtain ⟨hs, -⟩ := h
    induction m with
    | nil => unfold Memory.write; split <;> simp
    | cons x m ih =>
      obtain ⟨a, b⟩ := x
      have hx := List.pairwise_cons.1 hs
      unfold Memory.write
      split
      · rename_i hia
        split
        · exact hs
        · refine List.pairwise_cons.2 ⟨fun c hc => ?_, hs⟩
          rcases List.mem_cons.1 hc with rfl | hc
          · exact hia
          · exact lt_trans hia (hx.1 c hc)
      · split
        · rename_i h1 h2
          split
          · exact hx.2
          · exact List.pairwise_cons.2 ⟨fun c hc => by have := hx.1 c hc; omega, hx.2⟩
        · refine List.pairwise_cons.2 ⟨fun c hc => ?_, ih hx.2⟩
          rcases Memory.mem_write hc with hc | ⟨rfl, -⟩
          · exact hx.1 c hc
          · simp only; omega
  · rcases Memory.mem_write hc with hc | ⟨rfl, hv⟩
    · exact h.2 c hc
    · exact hv

/-- A write within the length keeps every listed index within it. -/
theorem Memory.write_bounded {m : Memory} {n : Nat} (h : ∀ c ∈ m, c.1 < n) {i : Nat} (hi : i < n) (v : Byte) :
    ∀ c ∈ Memory.write m i v, c.1 < n := fun c hc => by
  rcases Memory.mem_write hc with hc | ⟨rfl, -⟩
  · exact h c hc
  · exact hi

/-- An index below every listed one reads as an unlisted one. -/
theorem Memory.read_of_lt {m : Memory} {j : Nat} (h : ∀ c ∈ m, j < c.1) : Memory.read m j = Memory.unlisted := by
  induction m with
  | nil => rfl
  | cons x m ih =>
    obtain ⟨a, b⟩ := x
    have := h (a, b) (List.mem_cons_self ..)
    unfold Memory.read
    rw [if_neg (by simp only at this; omega)]
    exact ih fun c hc => h c (List.mem_cons_of_mem _ hc)

/-- Reading the index written gives the value written. -/
theorem Memory.read_write_same {m : Memory} (h : Memory.wf m = true) (i : Nat) (v : Byte) :
    Memory.read (Memory.write m i v) i = v := by
  obtain ⟨hs, -⟩ := (Memory.wf_iff m).1 h
  clear h
  induction m with
  | nil => unfold Memory.write; split <;> simp_all [Memory.read]
  | cons x m ih =>
    obtain ⟨a, b⟩ := x
    have hx := List.pairwise_cons.1 hs
    unfold Memory.write
    split
    · rename_i hia
      split
      · rename_i hv
        rw [hv]
        refine Memory.read_of_lt fun c hc => ?_
        rcases List.mem_cons.1 hc with rfl | hc
        · exact hia
        · exact lt_trans hia (hx.1 c hc)
      · simp [Memory.read]
    · split
      · rename_i h1 h2
        subst h2
        split
        · rename_i hv
          rw [hv]
          exact Memory.read_of_lt fun c hc => hx.1 c hc
        · simp [Memory.read]
      · rename_i h2
        unfold Memory.read
        rw [if_neg h2]
        exact ih hx.2

/-- Reading another index gives what it gave before. -/
theorem Memory.read_write_other {m : Memory} (h : Memory.wf m = true) {i j : Nat} (hij : j ≠ i) (v : Byte) :
    Memory.read (Memory.write m i v) j = Memory.read m j := by
  obtain ⟨hs, -⟩ := (Memory.wf_iff m).1 h
  clear h
  induction m with
  | nil => unfold Memory.write; split <;> simp [Memory.read, hij]
  | cons x m ih =>
    obtain ⟨a, b⟩ := x
    have hx := List.pairwise_cons.1 hs
    unfold Memory.write
    split
    · split
      · rfl
      · simp [Memory.read, hij]
    · split
      · rename_i h1 h2
        subst h2
        split
        · simp [Memory.read, hij]
        · simp [Memory.read, hij]
      · simp only [Memory.read]
        split
        · rfl
        · exact ih hx.2

/-- Bytes laid out from index `i` on are listed at `i` or above, and below the end. -/
theorem Memory.ofBytesFrom_bounds (bs : List Byte) (i : Nat) :
    ∀ c ∈ Memory.ofBytesFrom i bs, i ≤ c.1 ∧ c.1 < i + bs.length := by
  induction bs generalizing i with
  | nil => simp [Memory.ofBytesFrom]
  | cons b bs ih =>
    intro c hc
    unfold Memory.ofBytesFrom at hc
    split at hc
    · have := ih (i + 1) c hc
      simp only [List.length_cons]
      omega
    · rcases List.mem_cons.1 hc with rfl | hc
      · simp
      · have := ih (i + 1) c hc
        simp only [List.length_cons]
        omega

/-- A buffer laid out from a list of bytes is canonical. -/
theorem Memory.ofBytes_wf (bs : List Byte) : Memory.wf (Memory.ofBytes bs) = true := by
  suffices h : ∀ i, Memory.wf (Memory.ofBytesFrom i bs) = true from h 0
  induction bs with
  | nil => intro i; rfl
  | cons b bs ih =>
    intro i
    unfold Memory.ofBytesFrom
    split
    · exact ih (i + 1)
    · have hi := (Memory.wf_iff _).1 (ih (i + 1))
      refine (Memory.wf_iff _).2 ⟨List.pairwise_cons.2 ⟨fun c hc => ?_, hi.1⟩, fun c hc => ?_⟩
      · have := Memory.ofBytesFrom_bounds bs (i + 1) c hc
        simp only
        omega
      · rcases List.mem_cons.1 hc with rfl | hc
        · assumption
        · exact hi.2 c hc

end Sys2Proof
end

