-- ==== Sys2Proof/Laws/Unspecified.lean ====
section
/-! SUPPORT. The elements without a specified value (R38, R39): what a step reads of them was written before, and two states that agree on
what a rule can still read step alike. -/

namespace Sys2Proof.Machine

/-! ### Rows and masks -/

/-- What stands at each row of each table (R123, R124, R127, R130, R134), as far as reads and writes of the data registers go. -/
theorem rowAt_facts : ∀ o ∈ [Op.start, .stop, .send, .recv], ∀ n ∈ List.range 55, ∀ r ∈ (tableOf o)[n]?.toList,
    ((∀ k, r.op = .setShiftBit k → o = .send) ∧ (r.op = .setAckReq → o = .recv))
    ∧ (r.op = .sampleAck ↔ o = .send ∧ n = 52)
    ∧ (∀ k : Fin 8, r.op = .sampleBit k → o = .recv ∧ 8 - samplesBefore n = k.val + 1 ∧ 8 - samplesBefore (n + 1) = k.val)
    ∧ (o = .recv → (∀ k, r.op ≠ .sampleBit k) → samplesBefore (n + 1) = samplesBefore n)
    ∧ (r.op = .sampleBit 0 ↔ o = .recv ∧ n = 38) := by
  decide +kernel

/-- The same for the row MPC points to. -/
theorem row_facts {s : State} {r : MicroRow} (h : (tableOf s.op)[s.mpc.toNat]? = some r) :
    ((∀ k, r.op = .setShiftBit k → s.op = .send) ∧ (r.op = .setAckReq → s.op = .recv))
    ∧ (r.op = .sampleAck ↔ s.op = .send ∧ s.mpc.toNat = 52)
    ∧ (∀ k : Fin 8, r.op = .sampleBit k →
        s.op = .recv ∧ 8 - samplesBefore s.mpc.toNat = k.val + 1 ∧ 8 - samplesBefore (s.mpc.toNat + 1) = k.val)
    ∧ (s.op = .recv → (∀ k, r.op ≠ .sampleBit k) → samplesBefore (s.mpc.toNat + 1) = samplesBefore s.mpc.toNat)
    ∧ (r.op = .sampleBit 0 ↔ s.op = .recv ∧ s.mpc.toNat = 38) := by
  refine rowAt_facts s.op (by cases s.op <;> simp) s.mpc.toNat ?_ r (by simp [h])
  have : (tableOf s.op).length ≤ 55 := by cases s.op <;> decide
  have := (List.getElem?_eq_some_iff.1 h).1
  exact List.mem_range.2 (by omega)

/-- A sampled bit, seen through the mask of the bits sampled so far. -/
theorem setBit_mask (k : Fin 8) (v : Bool) (x : Byte) :
    setBit x k v &&& (0xFF#8 <<< k.val) = (x &&& (0xFF#8 <<< (k.val + 1))) ||| (if v then 1#8 <<< k.val else 0#8) := by
  revert k v x
  decide +kernel

/-- After its eight samples all of SHIFT can be read. -/
theorem mask_full (x : Byte) : x &&& (0xFF#8 <<< (8 - samplesBefore 48)) = x := by
  revert x
  decide +kernel

/-! ### Reads, writes and what is forgotten -/

/-- A step reads no element that is unread. -/
theorem State.read_is_specified {s t : State} (hi : s.EngineInv) (h : step s = .next t) {e : Element} (he : e ∈ s.reads t) :
    s.unread e = false := by
  unfold State.reads at he
  split at he
  · rename_i hg
    obtain ⟨hl, hv, hm, -⟩ := hi.1 hg
    obtain ⟨row, hr⟩ : ∃ row, (tableOf s.op)[s.mpc.toNat]? = some row := ⟨_, List.getElem?_eq_getElem hm⟩
    obtain ⟨⟨f1, f2⟩, -⟩ := row_facts hr
    simp only [State.row, hr, Option.toList_some, List.flatMap_cons, List.flatMap_nil, List.append_nil, List.mem_cons,
      List.mem_append] at he
    rcases he with rfl | rfl | he | he
    · simp [State.unread, hg]
    · simp [State.unread, hg]
    · cases ho : row.op with
      | set l v => cases l <;> simp [microReads, ho] at he <;> simp [he, State.unread, hl]
      | setShiftBit k =>
        simp [microReads, ho] at he
        rcases he with rfl | rfl <;> simp [State.unread, hl, hg, f1 k ho]
      | setAckReq =>
        simp [microReads, ho] at he
        rcases he with rfl | rfl <;> simp [State.unread, hl, hg, f2 ho]
      | _ => simp [microReads, ho] at he; simp [he, State.unread, hl]
    · split at he
      · rename_i hlast
        simp only [State.atLastRow, decide_eq_true_eq] at hlast
        cases ho : s.op <;> simp [ho, completionReads] at he <;> subst he
        · have : s.mpc.toNat + 1 = 55 := by rw [hlast, ho]; rfl
          simp [State.unread, hg, ho]; omega
        · have : s.mpc.toNat + 1 = 48 := by rw [hlast, ho]; rfl
          simp [State.unread, hg, ho]; omega
      · cases he
  · split at he
    · cases he
    · cases he
    · rename_i hp
      have hh : hostStep s = .next t := by unfold step at h; rwa [hp] at h
      simp only [State.hostReads, List.mem_append] at he
      rcases he with he | he <;> split at he
      · rename_i ho
        have hv : s.rspValid = true := by
          rcases hostStep_cases hh with ⟨k, -, hv, -⟩ | ⟨k, s0, -, hs0, hc⟩ | rfl
          · exact hv
          · exfalso
            have e0 : s0.owner = s.owner := by rcases hs0 with rfl | rfl <;> rfl
            rcases State.callerStep_owner hc with ⟨e, -⟩ | ⟨_, _, _, e⟩
            · exact ho.1 (by rw [e, e0])
            · rw [e] at ho; simp at ho
          · exact absurd rfl ho.1
        simp at he
        rcases he with rfl | rfl <;> simp [State.unread, hv]
      · cases he
      · rename_i ho
        have hl : s.life ≠ .unconfigured := by
          rcases hostStep_engine hh with h | ⟨_, _, _, _, _, _, _, h⟩ | ⟨h, -⟩
          · exact absurd h.2.2.2.2.2.2.2.2.2.2.2.2.2.2.2.2.1.symm ho.1
          · have := h.1
            rw [ho.2] at this
            simp [State.initialise] at this
          · exact h
        simp at he
        rcases he with rfl | rfl <;> simp [State.unread, hl]
      · cases he

/-- An unread element stays unread until a step writes it. -/
theorem State.unread_kept {s t : State} (hi : s.EngineInv) (h : step s = .next t) {e : Element} (hu : s.unread e = true)
    (hw : e ∉ s.writes t) : t.unread e = true := by
  unfold State.writes at hw
  rcases step_cases h with ⟨hg, row, hr, rfl⟩ | ⟨hg, hl, w, i, hwd, hd, rfl⟩ | ⟨hg, hl, w, x, hwd, hd, rfl⟩ | ⟨hg, hl, hh⟩
  · obtain ⟨hinc, -⟩ := mpc_succ hr
    obtain ⟨hl, hv, -, -⟩ := hi.1 hg
    obtain ⟨-, f2, -, -, f5⟩ := row_facts hr
    simp only [hg, State.row, hr, Option.toList_some, List.flatMap_cons, List.flatMap_nil, List.append_nil, List.mem_append,
      not_or] at hw
    rcases State.afterMicro_cases (s.perform row.op) (tableOf s.op) (statusOf s.op) (dataOf s.op) with ⟨h1, h2⟩ | ⟨h1, h2⟩ <;>
      rw [h2] <;> simp only [State.perform_mpc, hinc] at h1
    · have : s.atLastRow = true := decide_eq_true h1
      simp only [this] at hw
      cases e <;> simp_all [State.unread, State.complete]
    · have hs : e = .shift → ¬ (s.op = .recv ∧ s.mpc.toNat = 38) := by
        rintro rfl hc
        exact hw.1 (by simp [f5.2 hc, microWrites])
      have ha : e = .ackBit → ¬ (s.op = .send ∧ s.mpc.toNat = 52) := by
        rintro rfl hc
        exact hw.1 (by simp [f2.2 hc, microWrites])
      cases e <;> simp [State.unread, hg, hl, hv, hinc, -BitVec.toNat_add] at hu hs ha ⊢
      · refine ⟨hu.1, ?_⟩
        by_cases ho : s.op = .recv
        · have := hs ho
          have := hu.2.resolve_left (not_not_intro ho)
          exact .inr (by omega)
        · exact .inl ho
      · exact hu
      · by_cases ho : s.op = .send
        · have := ha ho
          have := hu.resolve_left (not_not_intro ho)
          exact .inr (by omega)
        · exact .inl ho
  · have hp : s.pick = .run i := by simp [State.pick, hg, hl, hwd, hd]
    rw [hg, hp] at hw
    simp only at hw
    obtain ⟨h1, h2, h3, -, h5, -⟩ := s.accept_fields i
    cases e <;> simp [State.unread, h1, h2, h3, h5, hl] at hu ⊢ <;> cases i <;> simp_all [acceptanceWrites, opOf]
  · have hp : s.pick = .illegal w := by simp [State.pick, hg, hl, hwd, hd]
    rw [hg, hp] at hw
    simp only at hw
    cases e <;> simp_all [State.unread, State.acceptIllegal]
  · have hp : s.pick = .host := by
      rcases pick_cases s with ⟨a, -⟩ | ⟨-, a, w, i, b, -⟩ | ⟨-, a, w, i, b, -⟩ | ⟨-, -, a⟩
      · rw [hg] at a; cases a
      · simp_all
      · simp_all
      · exact a
    rw [hg, hp] at hw
    simp only at hw
    rcases hostStep_engine hh with h | ⟨scl, sda, rate, hun, -, -, -, h⟩ | ⟨hun, h⟩ <;>
      (obtain ⟨h1, h2, h3, h4, h5, h6, h7, h8, h9, h10, h11, h12, h13, h14, h15, h16, -⟩ := h
       cases e <;> simp_all [State.unread, State.initialise, State.releaseLine])

/-- What a step leaves without a defined value is unread after it. -/
theorem State.forgotten_is_unread {s t : State} (ht : t.EngineInv) {e : Element} (he : e ∈ s.forgets t) : t.unread e = true := by
  simp only [State.forgets, List.mem_append] at he
  rcases he with he | he <;> split at he
  · rename_i hg
    have := (ht.1 hg.2).2.1
    simp at he
    rcases he with rfl | rfl <;> simp [State.unread, this]
  · cases he
  · rename_i hg
    simp at he
    simp [he, State.unread, hg.2]
  · cases he

/-! ### States that agree on what a rule can still read -/

/-- When two states differ only in unread elements. -/
theorem State.hideUnread_eq_iff (s t : State) : s.hideUnread = t.hideUnread ↔
    (s.life = t.life ∧ s.guard = t.guard ∧ s.fsm = t.fsm ∧ s.sclOut = t.sclOut ∧ s.sdaOut = t.sdaOut ∧ s.sclMode = t.sclMode
      ∧ s.sdaMode = t.sdaMode ∧ s.rspValid = t.rspValid ∧ s.trace = t.trace ∧ s.env = t.env ∧ s.inputs = t.inputs
      ∧ s.port = t.port ∧ s.owner = t.owner ∧ s.callers = t.callers ∧ s.params = t.params)
    ∧ (s.life ≠ .unconfigured → s.cfg = t.cfg)
    ∧ (s.rspValid = true → s.rspStatus = t.rspStatus ∧ s.rspData = t.rspData)
    ∧ (s.guard = true → s.op = t.op ∧ s.mpc = t.mpc)
    ∧ (s.guard = true → s.op = .send → s.shift = t.shift ∧ (52 < s.mpc.toNat → s.ackBit = t.ackBit))
    ∧ (s.guard = true → s.op = .recv → s.ackReq = t.ackReq
        ∧ s.shift &&& (0xFF#8 <<< (8 - samplesBefore s.mpc.toNat)) = t.shift &&& (0xFF#8 <<< (8 - samplesBefore s.mpc.toNat))) := by
  rcases s with ⟨a1, a2, a3, a4, a5, a6, a7, a8, a9, a10, a11, a12, a13, a14, a15, a16, a17, a18, a19, a20, a21, a22, a23⟩
  rcases t with ⟨b1, b2, b3, b4, b5, b6, b7, b8, b9, b10, b11, b12, b13, b14, b15, b16, b17, b18, b19, b20, b21, b22, b23⟩
  simp only [State.hideUnread, State.mk.injEq, State.unread, State.shiftRead]
  constructor
  · rintro ⟨rfl, h2, rfl, rfl, h5, h6, h7, h8, h9, rfl, rfl, rfl, rfl, rfl, h15, h16, rfl, rfl, rfl, rfl, rfl, rfl, rfl⟩
    cases a3
    · cases a1 <;> cases a14 <;> simp_all
    · simp at h5 h6
      subst h5 h6
      by_cases hk : 52 < a6.toNat
      · have : ¬ a6.toNat ≤ 52 := by omega
        cases a5 <;> cases a1 <;> cases a14 <;> simp_all
      · have : a6.toNat ≤ 52 := by omega
        cases a5 <;> cases a1 <;> cases a14 <;> simp_all
  · rintro ⟨⟨rfl, rfl, rfl, rfl, rfl, rfl, rfl, rfl, rfl, rfl, rfl, rfl, rfl, rfl, rfl⟩, h2, h9, h5, h7, h8⟩
    cases a3
    · cases a1 <;> cases a14 <;> simp_all
    · obtain ⟨rfl, rfl⟩ := h5 rfl
      by_cases hk : 52 < a6.toNat
      · have : ¬ a6.toNat ≤ 52 := by omega
        cases a5 <;> cases a1 <;> cases a14 <;> simp_all
      · have : a6.toNat ≤ 52 := by omega
        cases a5 <;> cases a1 <;> cases a14 <;> simp_all

/-- A running command's step, in two such states (R39). -/
theorem step_hide_of_guard {s s' : State} (hg : s.guard = true) (h : s.hideUnread = s'.hideUnread) :
    hideOutcome (step s) = hideOutcome (step s') := by
  rw [State.hideUnread_eq_iff] at h
  obtain ⟨⟨e1, e2, e3, e4, e5, e6, e7, e8, e9, e10, e11, e12, e13, e14, e15⟩, hc, hrsp, hom, hsend, hrecv⟩ := h
  have hg' : s'.guard = true := by rw [← hg, e2]
  obtain ⟨hop, hmpc⟩ := hom hg
  replace hsend := hsend hg
  replace hrecv := hrecv hg
  by_cases hlt : s.mpc.toNat < lengthOf s.op
  · have hr : (tableOf s.op)[s.mpc.toNat]? = some ((tableOf s.op)[s.mpc.toNat]'hlt) := List.getElem?_eq_getElem hlt
    generalize (tableOf s.op)[s.mpc.toNat]'hlt = row at hr
    have hr' : (tableOf s'.op)[s'.mpc.toNat]? = some row := by rw [← hop, ← hmpc]; exact hr
    rw [step_of_row hg hr, step_of_row hg' hr']
    obtain ⟨⟨f1, f2⟩, f3, f4, f5, -⟩ := row_facts hr
    obtain ⟨hm, -⟩ := mpc_succ hr
    have hsl : s.sampleLevel = s'.sampleLevel := by rw [State.sampleLevel_eq, State.sampleLevel_eq, e5, e11]
    have ev : s.eventOf row.op = s'.eventOf row.op := by
      cases ho : row.op with
      | setShiftBit k => simp [State.eventOf, (hsend (f1 k ho)).1]
      | setAckReq => simp [State.eventOf, (hrecv (f2 ho)).1]
      | sampleAck => simp [State.eventOf, hsl]
      | sampleBit k => simp [State.eventOf, hsl]
      | _ => rfl
    have out : ∀ l, (s.perform row.op).driver l = (s'.perform row.op).driver l := by
      intro l
      rw [State.driver_perform, State.driver_perform]
      have : s.driver l = s'.driver l := by cases l <;> assumption
      cases ho : row.op with
      | setShiftBit k => simp [(hsend (f1 k ho)).1, this]
      | setAckReq => simp [(hrecv (f2 ho)).1, this]
      | _ => simp [this]
    have outs : (s.perform row.op).sclOut = (s'.perform row.op).sclOut ∧ (s.perform row.op).sdaOut = (s'.perform row.op).sdaOut :=
      ⟨out .scl, out .sda⟩
    have env : (s.perform row.op).env = (s'.perform row.op).env := by
      cases row.op <;> simp [State.perform, State.microSet, State.microDelay, State.microSample, State.drawDrive, e10, e11]
    have inp : (s.perform row.op).inputs = (s'.perform row.op).inputs := by
      rw [State.perform_inputs, State.perform_inputs, e11]
    have shSend : s.op = .send → (s.perform row.op).shift = (s'.perform row.op).shift := by
      intro ho
      rw [State.perform_shift, State.perform_shift]
      cases hro : row.op with
      | sampleBit k => have := (f4 k hro).1; rw [ho] at this; cases this
      | _ => simp [(hsend ho).1]
    have shRecv : s.op = .recv →
        (s.perform row.op).shift &&& (0xFF#8 <<< (8 - samplesBefore (s.mpc.toNat + 1)))
          = (s'.perform row.op).shift &&& (0xFF#8 <<< (8 - samplesBefore (s.mpc.toNat + 1))) := by
      intro ho
      rw [State.perform_shift, State.perform_shift]
      cases hro : row.op with
      | sampleBit k =>
        obtain ⟨-, x, y⟩ := f4 k hro
        simp only
        rw [y, setBit_mask, setBit_mask, hsl, ← x, (hrecv ho).2]
      | _ => simp only; rw [f5 ho (by simp [hro])]; exact (hrecv ho).2
    have ack : s.op = .send → 52 < s.mpc.toNat + 1 → (s.perform row.op).ackBit = (s'.perform row.op).ackBit := by
      intro ho hlt
      rw [State.perform_ackBit, State.perform_ackBit]
      cases hro : row.op with
      | sampleAck => exact hsl
      | _ =>
        have : s.mpc.toNat ≠ 52 := fun h => by have := f3.2 ⟨ho, h⟩; rw [hro] at this; cases this
        exact (hsend ho).2 (by omega)
    simp only [hideOutcome]
    congr 1
    rw [← hop]
    rcases State.afterMicro_cases (s.perform row.op) (tableOf s.op) (statusOf s.op) (dataOf s.op) with ⟨h1, h2⟩ | ⟨h1, h2⟩ <;>
      rcases State.afterMicro_cases (s'.perform row.op) (tableOf s.op) (statusOf s.op) (dataOf s.op) with ⟨h1', h2'⟩ | ⟨h1', h2'⟩ <;>
      rw [h2, h2', State.hideUnread_eq_iff] <;> simp only [State.perform_mpc, ← hmpc] at h1 h1'
    · have st : statusOf s.op (s.perform row.op) = statusOf s.op (s'.perform row.op) := by
        cases ho : s.op <;> simp [statusOf, statusOk, statusOfAckBit]
        have : s.mpc.toNat + 1 = 55 := by rw [hm] at h1; rw [h1, ho]; rfl
        rw [ack ho (by omega)]
      have dt : dataOf s.op (s.perform row.op) = dataOf s.op (s'.perform row.op) := by
        cases ho : s.op <;> simp [dataOf, dataZero, dataShift]
        have : s.mpc.toNat + 1 = 48 := by rw [hm] at h1; rw [h1, ho]; rfl
        simpa only [this, mask_full] using shRecv ho
      simp [State.complete, e1, e6, e7, e9, e12, e13, e14, e15, env, inp, outs, st, dt, ev]
      exact fun h => hc (by rw [e1]; exact h)
    · exact absurd h1 h1'
    · exact absurd h1' h1
    · simp only [State.putFsm_mpc, State.perform_mpc, hm]
      simp [-BitVec.toNat_add, e1, e2, e6, e7, e8, e9, e12, e13, e14, e15, env, inp, outs, ev, hmpc, hop]
      rw [hop] at hsend hrecv shSend shRecv ack
      rw [← hmpc]
      exact ⟨by rw [hm], fun h => hc (by rw [e1]; exact h), fun h => hrsp (by rw [e8]; exact h), fun _ ho => ⟨shSend ho, fun h => ack ho (by omega)⟩,
        fun _ ho => ⟨(hrecv ho).1, shRecv ho⟩⟩
  · have stuck : ∀ x : State, x.guard = true → (tableOf x.op)[x.mpc.toNat]? = none → step x = .fault .mpcBeyondTable := by
      intro x hg hn
      have hp : x.pick = .run x.inFlight := by simp [State.pick, hg]
      simp [step, hp, exec_eq_commandStep, commandStep, hg, microStep, hn]
    have hn : (tableOf s.op)[s.mpc.toNat]? = none := List.getElem?_eq_none_iff.2 (Nat.le_of_not_lt hlt)
    rw [stuck s hg hn, stuck s' hg' (by rw [← hop, ← hmpc]; exact hn)]

/-- Two idle states that agree on everything a host step can read (R38, R39). -/
structure State.IdleAgree (s s' : State) : Prop where
  idle    : s.guard = false
  idle'   : s'.guard = false
  same    : s.life = s'.life ∧ s.fsm = s'.fsm ∧ s.sclOut = s'.sclOut ∧ s.sdaOut = s'.sdaOut ∧ s.sclMode = s'.sclMode
    ∧ s.sdaMode = s'.sdaMode ∧ s.rspValid = s'.rspValid ∧ s.trace = s'.trace ∧ s.env = s'.env ∧ s.inputs = s'.inputs
    ∧ s.port = s'.port ∧ s.owner = s'.owner ∧ s.callers = s'.callers ∧ s.params = s'.params
  cfg     : s'.life ≠ .unconfigured → s.cfg = s'.cfg
  rsp     : s'.rspValid = true → s.rspStatus = s'.rspStatus ∧ s.rspData = s'.rspData

/-- Idle states that differ only in unread elements agree so, and the other way round. -/
theorem State.idleAgree_iff {s s' : State} (hg : s.guard = false) :
    s.IdleAgree s' ↔ s.hideUnread = s'.hideUnread := by
  rw [State.hideUnread_eq_iff]
  constructor
  · rintro ⟨-, hg', ⟨a1, a3, a4, a5, a6, a7, a8, a9, a10, a11, a12, a13, a14, a15⟩, hc, hr⟩
    refine ⟨⟨a1, by rw [hg, hg'], a3, a4, a5, a6, a7, a8, a9, a10, a11, a12, a13, a14, a15⟩, ?_, ?_, ?_, ?_, ?_⟩
    · rw [a1]; exact hc
    · rw [a8]; exact hr
    all_goals intro h; rw [hg] at h; cases h
  · rintro ⟨⟨a1, a2, a3, a4, a5, a6, a7, a8, a9, a10, a11, a12, a13, a14, a15⟩, hc, hr, -⟩
    exact ⟨hg, by rw [← a2, hg], ⟨a1, a3, a4, a5, a6, a7, a8, a9, a10, a11, a12, a13, a14, a15⟩, by rw [← a1]; exact hc,
      by rw [← a8]; exact hr⟩

/-- A next state in which they still agree. -/
theorem State.IdleAgree.hideOutcome {t t' : State} (h : t.IdleAgree t') :
    hideOutcome (.next t) = hideOutcome (.next t') := by
  simp only [Machine.hideOutcome]
  rw [(State.idleAgree_iff h.idle).1 h]

/-- A caller's step, in two such states. -/
theorem State.callerStep_hide {s s' : State} (h : s.IdleAgree s') (k : Nat) :
    Machine.hideOutcome (s.callerStep k) = Machine.hideOutcome (s'.callerStep k) := by
  obtain ⟨hg, hg', ⟨e1, e3, e4, e5, e6, e7, e8, e9, e10, e11, e12, e13, e14, e15⟩, hc, hr⟩ := id h
  have set : ∀ c : Caller, (s.setCaller k c).IdleAgree (s'.setCaller k c) := fun c =>
    ⟨hg, hg', ⟨e1, e3, e4, e5, e6, e7, e8, e9, e10, e11, e12, e13, by simp [State.setCaller, e14], e15⟩, hc, hr⟩
  have pres : ∀ (c : Caller) w, (s.present k c w).IdleAgree (s'.present k c w) := fun c w =>
    ⟨hg, hg', ⟨e1, e3, e4, e5, e6, e7, e8, e9, e10, e11, rfl, rfl, by simp [State.present, State.setCaller, e14], e15⟩, hc, hr⟩
  unfold State.callerStep
  rw [e14]
  cases s'.callers[k]? with
  | none => exact h.hideOutcome
  | some c =>
    cases hcall : c.call with
    | some t =>
      simp only [hcall]
      unfold State.transferStep
      rw [show s.nextNow c = s'.nextNow c by simp [State.nextNow, e11]]
      have now : ∀ c : Caller, (s.drawElapsed.setCaller k c).IdleAgree (s'.drawElapsed.setCaller k c) := fun c =>
        ⟨hg, hg', ⟨e1, e3, e4, e5, e6, e7, e8, e9, e10, congrArg Inputs.dropElapsed e11, e12, e13,
          by simp [State.setCaller, State.drawElapsed, e14], e15⟩, hc, hr⟩
      cases t.point <;> simp only
      case readT0 | check => exact (now _).hideOutcome
      case backoff => exact (set _).hideOutcome
      all_goals
        split
        · exact (pres _ _).hideOutcome
        · rfl
    | none =>
      simp only [hcall]
      cases c.pending with
      | nil => exact h.hideOutcome
      | cons o os =>
        cases o with
        | issue w => exact (pres _ _).hideOutcome
        | init a =>
          have alloc : ∀ c : Caller, (s.drawAlloc.setCaller k c).IdleAgree (s'.drawAlloc.setCaller k c) := fun c =>
            ⟨hg, hg', ⟨e1, e3, e4, e5, e6, e7, e8, e9, e10, congrArg Inputs.dropAlloc e11, e12, e13,
              by simp [State.setCaller, State.drawAlloc, e14], e15⟩, hc, hr⟩
          have done : ∀ (c : Caller) x y z, ((s.drawAlloc.initialise x y z).setCaller k c).IdleAgree
              ((s'.drawAlloc.initialise x y z).setCaller k c) := fun c x y z =>
            ⟨rfl, rfl, ⟨rfl, rfl, rfl, rfl, rfl, rfl, rfl,
              by simp [State.setCaller, State.initialise, State.releaseLine, State.drawAlloc, e9],
              by simpa [State.setCaller, State.initialise, State.releaseLine, State.drawAlloc] using e10,
              by simp [State.setCaller, State.initialise, State.releaseLine, State.drawAlloc, e11],
              by simpa [State.setCaller, State.initialise, State.releaseLine, State.drawAlloc] using e12,
              by simpa [State.setCaller, State.initialise, State.releaseLine, State.drawAlloc] using e13,
              by simp [State.setCaller, State.initialise, State.releaseLine, State.drawAlloc, e14],
              by simpa [State.setCaller, State.initialise, State.releaseLine, State.drawAlloc] using e15⟩,
              fun _ => by simp [State.setCaller, State.initialise, State.releaseLine],
              fun h => by cases h⟩
          simp only [State.init, e1, e15, e11]
          cases s'.life with
          | unconfigured =>
            cases a with
            | none => exact (set _).hideOutcome
            | some p =>
              obtain ⟨x, y, z⟩ := p
              by_cases b1 : Params.tooWide s'.params x y z = true
              · simp only [if_pos b1]; exact (set _).hideOutcome
              · by_cases b2 : z = 0
                · simp only [if_neg b1, if_pos b2]; exact (set _).hideOutcome
                · by_cases b3 : x = y
                  · simp only [if_neg b1, if_neg b2, if_pos b3]; exact (set _).hideOutcome
                  · by_cases b4 : s'.inputs.nextAllocFails = true
                    · simp only [if_neg b1, if_neg b2, if_neg b3, if_pos b4]; exact (alloc _).hideOutcome
                    · simp only [if_neg b1, if_neg b2, if_neg b3, if_neg b4]; exact (done _ _ _ _).hideOutcome
          | configured => rfl
          | tornDown => rfl
        | teardown =>
          have gone : s'.life ≠ .unconfigured → ∀ c : Caller,
              ((State.setCaller { ((s.releaseLine .scl).releaseLine .sda).unconfigurePins with life := .tornDown } k c).IdleAgree
                (State.setCaller { ((s'.releaseLine .scl).releaseLine .sda).unconfigurePins with life := .tornDown } k c)) :=
            fun hl c =>
            ⟨by simpa [State.setCaller, State.releaseLine] using hg, by simpa [State.setCaller, State.releaseLine] using hg',
              ⟨rfl, by simpa [State.setCaller, State.releaseLine] using e3, rfl, rfl, rfl, rfl,
              by simpa [State.setCaller, State.releaseLine] using e8, by simp [State.setCaller, State.releaseLine, e9],
              by simpa [State.setCaller, State.releaseLine] using e10, by simpa [State.setCaller, State.releaseLine] using e11,
              by simpa [State.setCaller, State.releaseLine] using e12, by simpa [State.setCaller, State.releaseLine] using e13,
              by simp [State.setCaller, State.releaseLine, e14], by simpa [State.setCaller, State.releaseLine] using e15⟩,
              fun _ => by simpa [State.setCaller, State.releaseLine] using hc hl,
              fun h => by simpa [State.setCaller, State.releaseLine] using hr (by simpa [State.setCaller, State.releaseLine] using h)⟩
          simp only [State.beginTeardown, State.teardownRefused, State.teardown, e1]
          split <;> cases hl : s'.life
          case isTrue.configured | isTrue.tornDown => exact (gone (by simp [hl]) _).hideOutcome
          case isFalse.configured => exact (set _).hideOutcome
          all_goals rfl
        | transfer b d q =>
          simp only [State.beginTransfer, e15]
          cases validate s'.params b d q with
          | valid d r => exact (set _).hideOutcome
          | invalid => exact (set _).hideOutcome
          | refused r => rfl

/-- A step of the host side, in two such states. -/
theorem hostStep_hide {s s' : State} (h : s.IdleAgree s') : hideOutcome (hostStep s) = hideOutcome (hostStep s') := by
  obtain ⟨hg, hg', ⟨e1, e3, e4, e5, e6, e7, e8, e9, e10, e11, e12, e13, e14, e15⟩, hc, hr⟩ := id h
  have grant : hideOutcome s.grantStep = hideOutcome s'.grantStep := by
    unfold State.grantStep
    rw [show s.movers = s'.movers by simp [State.movers, State.canMove, State.cmdReady, e1, e12, e13, e14, hg, hg'], e11]
    split
    · unfold State.nobodyMoves State.commandWaits
      rw [e12, e14, e1]
      split
      · cases s'.life with
        | configured => exact h.hideOutcome
        | _ => rfl
      · exact h.hideOutcome
    · exact State.callerStep_hide h _
    · have drawn : s.drawGrant.IdleAgree s'.drawGrant :=
        ⟨hg, hg', ⟨e1, e3, e4, e5, e6, e7, e8, e9, e10, congrArg Inputs.dropGrant e11, e12, e13, e14, e15⟩, hc, hr⟩
      exact State.callerStep_hide drawn _
  unfold hostStep
  rw [e13, e8, e12, hg, hg']
  cases s'.owner with
  | none => exact grant
  | some k =>
    simp only
    split
    · rename_i hv
      obtain ⟨q1, q2⟩ := hr (by simp at hv; exact hv.1)
      unfold State.collect
      rw [e14, q1, q2]
      cases s'.callers[k]? with
      | none =>
        have free : State.IdleAgree { s with owner := none } { s' with owner := none } :=
          ⟨hg, hg', ⟨e1, e3, e4, e5, e6, e7, e8, e9, e10, e11, e12, rfl, e14, e15⟩, hc, hr⟩
        simpa only [e14, q1, q2] using free.hideOutcome
      | some c =>
        cases ho : c.onResponse s'.rspStatus s'.rspData with
        | next c' =>
          simp only [ho]
          have free : State.IdleAgree { (s.setCaller k c') with owner := none } { (s'.setCaller k c') with owner := none } :=
            ⟨hg, hg', ⟨e1, e3, e4, e5, e6, e7, e8, e9, e10, e11, e12, rfl, by simp [State.setCaller, e14], e15⟩, hc, hr⟩
          exact free.hideOutcome
        | fault f => simp only [ho]
        | refused r => simp only [ho]
    · exact grant

end Sys2Proof.Machine
end

