-- ==== Sys2Proof/Laws/Wire.lean ====
section
/-! SUPPORT. What a command's samples do on the wire: nothing. -/

namespace Sys2Proof.Machine

/-- The rising edges of SCL do not depend on the results of the samples (R102, R106). -/
theorem sclRisesOf_traceOf (env : Drive) (shift : Byte) (ackReq : Bool) (rows : List MicroRow) (d : Drivers) (vs ws : List Bool) :
    sclRisesOf env d (traceOf shift ackReq rows vs) = sclRisesOf env d (traceOf shift ackReq rows ws) := by
  induction rows generalizing d vs ws with
  | nil => rfl
  | cons r rows ih => cases h : r.op <;> simp only [traceOf, h, sclRisesOf, Drivers.after] <;>
      first | rw [ih _ vs ws] | (rw [ih _ vs.tail ws.tail]; rfl)

/-- Nor do the conditions on the wire (R80, R102). -/
theorem conditionsOf_traceOf (env : Drive) (shift : Byte) (ackReq : Bool) (rows : List MicroRow) (d : Drivers) (vs ws : List Bool) :
    conditionsOf env d (traceOf shift ackReq rows vs) = conditionsOf env d (traceOf shift ackReq rows ws) := by
  induction rows generalizing d vs ws with
  | nil => rfl
  | cons r rows ih => cases h : r.op <;> simp only [traceOf, h, conditionsOf, Drivers.after] <;>
      first | rw [ih _ vs ws] | rw [ih _ vs.tail ws.tail]

end Sys2Proof.Machine
end

