-- ==== Sys2Proof/Tests/Slice0.lean ====
section
/-! SUPPORT. Tests: decoding of words written out from the spec, the WellFormed smoke test, single steps against the spec's vectors,
and for every obligation with hypotheses a state and operands that meet them. -/

namespace Sys2Proof.Tests

open Sys2Proof Sys2Proof.Machine

/-! ### Helpers -/

/-- Parameters of the tests. -/
def params : Params := { pinW := 8, rateW := 20, maxLen := 16, numCallers := 1, numBuses := 1 }

/-- Power-on reset with those parameters, and the one caller that goes with them. -/
def powerOn : State :=
  { State.reset with params := params, callers := [Caller.fresh] }

/-- The state right after INIT with pins 4 and 5 at 100 kHz (95_test_vectors.md, "idle"). -/
def idle : State :=
  { powerOn with
    life := .configured, cfg := { sclPin := 4, sdaPin := 5, clockRate := 100000 }, sclMode := .openDrain, sdaMode := .openDrain }

/-- A command in flight before its micro-operation `n`, inside a transaction. -/
def inCommand (o : Op) (n : Nat) : State :=
  { idle with guard := true, op := o, mpc := BitVec.ofNat 6 n, fsm := fsmAt (tableOf o) n, sclOut := false }

/-- `idle` with the environment's next drive of SDA fixed. -/
def sampling (s : State) (rel : Bool) : State :=
  { s with inputs := { s.inputs with env := [{ sdaRel := rel, sclRel := true }] } }

/-- One caller on `s`. -/
def withCaller (s : State) (c : Caller) : State := { s with callers := [c] }

/-- A caller with an operation to do. -/
def callerOf (o : HostOp) : Caller := { todo := [o], again := [], tearingDown := false, call := none, clock := 0, history := [] }

/-- A caller whose TEARDOWN has passed its check. -/
def waiting : Caller := { callerOf .teardown with tearingDown := true }

/-- A 3-byte write to 0x50 at a program point. -/
def writeCall (p : Point) : Call :=
  { addr7 := 0x50#7, dir := .write, len := 3, buf := [(0, 0xAB#8), (2, 0x01#8)], attempt := 1, t0 := 5, last := .busError,
    st := .ok, idx := 2, point := p }

/-- A 3-byte read from 0x50 at a program point. -/
def readCall (p : Point) : Call :=
  { addr7 := 0x50#7, dir := .read, len := 3, buf := [], attempt := 3, t0 := 5, last := .busError, st := .ok, idx := 2, point := p }

/-- A caller inside a TRANSFER. -/
def callerIn (t : Call) : Caller := { todo := [], again := [], tearingDown := false, call := some t, clock := 7, history := [] }

/-- A field of the next state. -/
def after {α : Type} (o : StepOutcome) (f : State → α) : Option α :=
  match o with
  | .next t => some (f t)
  | .fault _ => none
  | .refused _ => none

/-! ### Decoding (V200 to V217) -/

theorem test_decode_start : decode 0b0000000000000000#16 = .ok .start := by decide
theorem test_decode_stop : decode 0b0000000000000001#16 = .ok .stop := by decide
theorem test_decode_send : decode 0b1010010100000010#16 = .ok (.send 0xA5#8) := by decide
theorem test_decode_send_address : decode 0b0000100000000010#16 = .ok (.send 0x08#8) := by decide
theorem test_decode_recv_nack : decode 0b0000000000000011#16 = .ok (.recv false) := by decide
theorem test_decode_recv_ack : decode 0b0000000000000111#16 = .ok (.recv true) := by decide
theorem test_decode_ack_with_send : decode 0x0006#16 = .error .ackOutsideRecv := by decide
theorem test_decode_reserved_with_send : decode 0x00FA#16 = .error .reservedNonzero := by decide
theorem test_decode_data_with_recv : decode 0x0103#16 = .error .dataOutsideSend := by decide
theorem test_decode_all_ones : decode 0xFFFF#16 = .error .reservedNonzero := by decide
theorem test_decode_table_word : decodeTableWord 8 0x02 = some (.send 0x00#8) := by decide

/-! ### WellFormed: a well-formed term, and an ill-formed one for each check -/

theorem test_wf_params : params.wf = true ∧ ({ params with pinW := 0 } : Params).wf = false
    ∧ ({ params with rateW := 0 } : Params).wf = false ∧ ({ params with maxLen := 0 } : Params).wf = false
    ∧ ({ params with numCallers := 0 } : Params).wf = false ∧ ({ params with numBuses := 0 } : Params).wf = false := by decide
/-- One of two buses, with the given stream of draws. -/
def ofTwo (n : Nat) : State :=
  { idle with params := { params with numBuses := 2 }, inputs := { idle.inputs with stream := n } }
theorem test_wf_system : System.wf { buses := [idle] } = true ∧ System.wf { buses := [] } = false
    ∧ System.wf { buses := [idle, idle] } = false
    ∧ System.wf { buses := [ofTwo 0, ofTwo 1] } = true ∧ System.wf { buses := [ofTwo 0, ofTwo 0] } = false := by decide
theorem test_wf_memory : Memory.wf [(0, 0xAB#8), (2, 0x01#8)] = true ∧ Memory.wf [(2, 0x01#8), (0, 0xAB#8)] = false
    ∧ Memory.wf [(1, 0x01#8), (1, 0x02#8)] = false ∧ Memory.wf [(0, 0x00#8)] = false := by decide
theorem test_wf_request : Request.wf params { buf := [(1, 1#8)], len := 2, dir := .read } = true
    ∧ Request.wf params { buf := [(2, 1#8)], len := 2, dir := .read } = false
    ∧ Request.wf params { buf := [(0, 0#8)], len := 2, dir := .read } = false
    ∧ Request.wf params { buf := [], len := 17, dir := .read } = false := by decide
theorem test_wf_hostOp : HostOp.wf params (.init (some (4, 5, 100000))) = true
    ∧ HostOp.wf params (.transfer true none (some { buf := [], len := 16, dir := .read })) = true
    ∧ HostOp.wf params (.transfer true none (some { buf := [], len := 17, dir := .read })) = false := by decide
theorem test_wf_cfg : Cfg.legal params { sclPin := 4, sdaPin := 5, clockRate := 100000 } = true
    ∧ Cfg.legal params { sclPin := 4, sdaPin := 4, clockRate := 100000 } = false
    ∧ Cfg.legal params { sclPin := 4, sdaPin := 5, clockRate := 0 } = false
    ∧ Cfg.legal params { sclPin := 256, sdaPin := 5, clockRate := 1 } = false
    ∧ Cfg.legal params { sclPin := 4, sdaPin := 256, clockRate := 1 } = false
    ∧ Cfg.legal params { sclPin := 4, sdaPin := 5, clockRate := 1048576 } = false := by decide
theorem test_wf_call : Call.wf params (writeCall .check) = true
    ∧ Call.wf params { writeCall .check with attempt := 0 } = false
    ∧ Call.wf params { writeCall .check with attempt := 4 } = false
    ∧ Call.wf params { writeCall .check with st := .timeout } = false
    ∧ Call.wf params { writeCall .check with idx := 3 } = false
    ∧ Call.wf params { writeCall .backoff with attempt := 3 } = false
    ∧ Call.wf params { writeCall .check with len := 17 } = false
    ∧ Call.wf params { writeCall .check with buf := [(0, 0#8)] } = false
    ∧ Call.wf params { writeCall .check with buf := [(3, 1#8)] } = false := by decide

/-! ### One engine step of each command -/

/-- V24: after MPC 3. -/
theorem test_start_mpc3 : after (exec .start (inCommand .start 3)) (fun t => (t.mpc, t.fsm, t.guard)) =
    some (4#6, .startAsserted, true) := by decide
/-- R124: MPC 4 pulls SDA low while SCL is high. -/
theorem test_start_mpc4 : after (exec .start { inCommand .start 4 with sclOut := true }) (fun t => (t.sclOut, t.sdaOut, t.trace)) =
    some (true, false, [.set .sda false]) := by decide
/-- R127: MPC 4 releases SDA while SCL is high. -/
theorem test_stop_mpc4 : after (exec .stop { inCommand .stop 4 with sclOut := true, sdaOut := false })
    (fun t => (t.sclOut, t.sdaOut)) = some (true, true) := by decide
/-- R127, R121: MPC 5 is the last one. -/
theorem test_stop_last : after (exec .stop (inCommand .stop 5)) (fun t => (t.guard, t.fsm, t.rspValid, t.rspStatus, t.rspData)) =
    some (false, .idle, true, .ok, 0x00#8) := by decide
/-- V222: SEND's acceptance. -/
theorem test_send_accept : after (exec (.send 0x00#8) { idle with shift := 0xFF#8 }) (fun t => (t.guard, t.mpc, t.shift, t.fsm, t.trace)) =
    some (true, 0#6, 0x00#8, .bitTransfer, [.accept 0x0002#16]) := by decide
/-- V41: no acknowledge at MPC 52. -/
theorem test_send_sample : after (exec (.send 0xA5#8) (sampling { inCommand .send 52 with shift := 0xA5#8 } true))
    (fun t => (t.ackBit, t.mpc, t.trace)) = some (true, 53#6, [.sample true]) := by decide
/-- R134: the first sample, at MPC 3, is bit 7. -/
theorem test_recv_sample : after (exec (.recv false) (sampling { inCommand .recv 3 with shift := 0x80#8 } false))
    (fun t => (t.shift, t.ackBit)) = some (0x00#8, false) := by decide
/-- L1-4: RECV ACK drives SDA low at MPC 41. -/
theorem test_recv_ack : after (exec (.recv true) { inCommand .recv 41 with ackReq := true }) (fun t => (t.sdaOut, t.fsm)) =
    some (false, .ackPhase) := by decide

/-! ### The step, the lifecycle and the host sequence -/

/-- V219: an illegal word. -/
theorem test_illegal : after (step { idle with port := some 0x0008#16 })
    (fun t => (t.rspStatus, t.rspValid, t.guard, t.trace)) =
      some (.illegalCommand, true, false, [.accept 0x0008#16, .done .illegalCommand 0x00#8]) := by decide
/-- R242's example. -/
theorem test_init : (match State.init { powerOn with inputs := { powerOn.inputs with alloc := [false] } }
      (some (4, 5, 100000)) with
    | .next (t, st) => some (t.cfg, t.life, t.trace, st)
    | _ => none) =
      some ({ sclPin := 4, sdaPin := 5, clockRate := 100000 }, .configured,
        [.configure .scl, .configure .sda, .set .scl true, .set .sda true], .ok) := by decide
/-- R245's example. -/
theorem test_teardown : (match idle.teardown with
    | .next (t, st) => some (t.life, t.trace, st, t.cmdReady)
    | _ => none) = some (.tornDown, [.set .scl true, .set .sda true], .ok, false) := by decide
/-- R166's examples. -/
theorem test_address : addressByte 0x50#7 .write = 0xA0#8 ∧ addressByte 0x7F#7 .read = 0xFF#8 := by decide
/-- R169: the last byte of a read is NACKed. -/
theorem test_read_last : (readCall .issuePayload).command = .recv false
    ∧ ({ readCall .issuePayload with idx := 1 } : Call).command = .recv true := by decide
/-- R82 and R83: assembler text. -/
theorem test_assemble : assembleLine ['S', 'e', 'n', 'd', ' ', '0', 'x', 'A', '5', ' ', ';', ' ', 'x'] = some [0xA502#16]
    ∧ assembleLine ['R', 'E', 'C', 'V', ' ', 'N', 'A', 'C', 'K'] = some [0x0003#16]
    ∧ assembleLine ['r', 'e', 'a', 'd', ' ', '0', 'x', '5', '0', ',', ' ', '2'] =
        some [0x0000#16, 0xA102#16, 0x0007#16, 0x0003#16, 0x0001#16]
    ∧ assembleLine ['S', 'E', 'N', 'D', ' ', '2', '5', '6'] = none := by decide
/-- R103: the engine's pins and the environment's drive. -/
theorem test_ports : ({ idle with env := { sdaRel := false, sclRel := true } } : State).ports.sdaI = false
    ∧ idle.ports.cmdReady = true ∧ idle.ports.fsmState = 0#3 := by decide

/-! ### Witnesses: encoding -/

theorem witness_DecodeOfEncode : (Instr.send 0xFF#8).wf = true ∧ (Instr.recv true).wf = true ∧ Instr.start.wf = true := by decide
theorem witness_EncodeOfDecode : decode 0xFF02#16 = .ok (.send 0xFF#8) := by decide
theorem witness_OpcodeMapSelects : opcodeMap.any (fun r => r.selects 0xFF02#16) = true ∧ opcodeMap.any (fun r => r.selects 0x0007#16) = true := by
  decide
theorem witness_PseudoInstructionsExpand : ([0x08#8] : List Byte) ≠ []
    ∧ expand (.write 0x50#7 [0x08#8]) = some [.start, .send 0xA0#8, .send 0x08#8, .stop]
    ∧ expand (.read 0x50#7 1) = some [.start, .send 0xA1#8, .recv false, .stop] := by decide

/-! ### Witnesses: engine steps -/

theorem witness_StepRunsDecodedInstruction :
    ({ idle with port := some 0x0001#16 } : State).life = .configured ∧ ({ idle with port := some 0x0001#16 } : State).guard = false
      ∧ decode 0x0001#16 = .ok .stop ∧ (inCommand .send 0).guard = true ∧ decodeTableWord 16 0x0007 = some (.recv true) := by decide

/-- The hypotheses of the statements about an accepted command: AcceptanceSetsUpCommand, StartRunsToCompletion, StopRunsToCompletion,
SendRunsToCompletion, RecvRunsToCompletion, LineStateLeftByCommands, CommandsTakeFixedSteps, StartThenStopReleasesLines,
SendBitSequence. -/
theorem witness_accepted : idle.life = .configured ∧ idle.guard = false ∧ ¬ (idle.sclOut = true ∧ idle.sdaOut = false) := by decide

/-- The same from the other line states a command leaves, 0/0 and 0/1. -/
theorem witness_accepted_scl_low : ({ idle with sclOut := false, sdaOut := false } : State).life = .configured
    ∧ ({ idle with sclOut := false, sdaOut := false } : State).guard = false
    ∧ ({ idle with sclOut := false, sdaOut := false } : State).sclOut = false
    ∧ ({ idle with sclOut := false } : State).sclOut = false := by decide

theorem witness_IllegalWordAnsweredAtOnce : ({ idle with port := some 0x0004#16 } : State).life = .configured
    ∧ ({ idle with port := some 0x0004#16 } : State).guard = false ∧ ({ idle with port := some 0x0004#16 } : State).port = some 0x0004#16
    ∧ ∀ r ∈ opcodeMap, r.selects 0x0004#16 = false := by decide

/-- The first, a middle and the last row of a table. -/
theorem witness_OneMicroOperationPerStep :
    ((inCommand .start 0).guard = true ∧ (tableOf .start)[(inCommand .start 0).mpc.toNat]? = some ⟨.set .sda true, .startAsserted⟩)
      ∧ ((inCommand .start 0).mpc.toNat + 1 < lengthOf .start)
      ∧ ((inCommand .send 54).guard = true ∧ (tableOf .send)[(inCommand .send 54).mpc.toNat]? = some ⟨.delay, .ackPhase⟩)
      ∧ (inCommand .send 54).mpc.toNat + 1 = lengthOf .send := by decide

theorem witness_GuardExcludesOthers : (inCommand .recv 46).guard = true ∧ (Instr.start ≠ (inCommand .recv 46).inFlight)
    ∧ (after (step (inCommand .recv 46)) (fun t => t.guard)) = some true := by decide

/-- A caller reads NOW() while another one's SEND samples its acknowledge. -/
theorem witness_CallersMoveBesideACommand :
    (sampling (inCommand .send 52) true).guard = true ∧ (sampling (inCommand .send 52) true).inputs.env ≠ []
      ∧ (after (State.agentStep { withCaller (inCommand .send 52) (callerIn (writeCall .check)) with
          owner := some 1, inputs := { env := [{ sdaRel := true, sclRel := true }], elapsed := [3], alloc := [], grant := [], stream := 0, draws := 0 } }
        (.caller 0)) (fun t => t.callers.map (fun c => c.history))) = some [[.now 10]]
      ∧ (after (State.agentStep { withCaller (inCommand .send 52) (callerIn (writeCall .check)) with
          owner := some 1, inputs := { env := [{ sdaRel := true, sclRel := true }], elapsed := [3], alloc := [], grant := [], stream := 0, draws := 0 } }
        .engine) (fun t => t.ackBit)) = some true := by decide

theorem witness_WhereCommandsStop : State.reset.guard = false ∧ State.reset.life = .unconfigured
    ∧ ({ idle with life := .tornDown } : State).guard = false ∧ ({ idle with life := .tornDown } : State).life = .tornDown
    ∧ ({ inCommand .start 8 with fsm := .idle } : State).guard = true ∧ lengthOf .start ≤ (inCommand .start 8).mpc.toNat := by decide

/-- The invariant of a running command, at its first and at its last micro-operation. -/
theorem witness_engineInv : (inCommand .start 7).EngineInv ∧ (inCommand .recv 0).EngineInv ∧ idle.EngineInv := by
  unfold State.EngineInv
  decide

theorem witness_AckDetection : (inCommand .send 54).guard = true ∧ (inCommand .send 54).op = .send ∧ (inCommand .send 54).mpc = 54#6
    ∧ ({ inCommand .send 54 with ackBit := true } : State).mpc = 54#6 := by decide

/-- FSM_STATE's three clauses: a word accepted, no word, a command going on across its phase change (V47). -/
theorem witness_FsmStateTransitions :
    (({ idle with port := some 0xA502#16 } : State).guard = false ∧ ({ idle with port := some 0xA502#16 } : State).life = .configured)
      ∧ (after (step { idle with port := some 0xA502#16 }) (fun t => t.fsm)) = some .bitTransfer
      ∧ (after (step idle) (fun t => t.fsm)) = some .idle
      ∧ (after (step (inCommand .send 47)) (fun t => t.fsm)) = some .ackPhase
      ∧ (after (step (inCommand .recv 47)) (fun t => t.fsm)) = some .idle := by decide

theorem witness_FsmStateTransitions_inv : ({ idle with port := some 0xA502#16 } : State).EngineInv ∧ (inCommand .send 47).EngineInv
    ∧ (inCommand .recv 47).EngineInv := by
  unfold State.EngineInv
  decide

/-! ### Witnesses: lines and frames -/

theorem witness_LineIsWiredAnd : ((MicroOp.sampleAck = .sampleAck) ∧ ∃ k, MicroOp.sampleBit 7 = .sampleBit k) ∧ idle.sdaOut = true ∧ ({ idle with sdaOut := false } : State).sdaOut = false := by decide

/-- Two states that differ only in the environment's drive of SCL, with a step each. -/
theorem witness_SclIsNeverRead : ({ sampling (inCommand .send 52) true with env := { sdaRel := true, sclRel := false } } : State).hideScl =
      (sampling (inCommand .send 52) true).hideScl
    ∧ (after (exec (.send 0x00#8) (sampling (inCommand .send 52) true)) (fun t => t.ackBit)) = some true := ⟨rfl, by decide⟩

theorem witness_SetAndDelayFrame : Line.scl ≠ Line.sda := by decide

/-- LineInvariantKeptByStep and SamplesAreTheEnvironments: the drivers agree with the table at SEND's and RECV's samples. -/
theorem witness_lineInv : ({ inCommand .send 52 with sclOut := true } : State).LineInv
    ∧ ({ inCommand .recv 38 with sclOut := true } : State).LineInv := by
  constructor
  · refine ⟨fun _ l v h => ?_, fun h => ?_⟩
    · cases l <;> cases v <;> revert h <;> decide
    · revert h; decide
  · refine ⟨fun _ l v h => ?_, fun h => ?_⟩
    · cases l <;> cases v <;> revert h <;> decide
    · revert h; decide

theorem witness_SamplesAreTheEnvironments : ({ inCommand .send 52 with sclOut := true } : State).guard = true
    ∧ (tableOf .send)[(inCommand .send 52).mpc.toNat]? = some ⟨.sampleAck, .ackPhase⟩
    ∧ (tableOf .recv)[(inCommand .recv 38).mpc.toNat]? = some ⟨.sampleBit 0, .bitTransfer⟩ := by decide

/-- The next states of StartStopFrame, SendFrame and RecvFrame: an acceptance, a micro-operation, a waiting command, a completion. -/
theorem witness_frames : (after (exec .start idle) (fun t => t.guard)) = some true
    ∧ (after (exec .stop (inCommand .stop 5)) (fun t => t.guard)) = some false
    ∧ (after (exec .stop (inCommand .start 0)) (fun t => t.mpc)) = some 0#6
    ∧ (after (exec (.send 0x00#8) (inCommand .send 51)) (fun t => t.mpc)) = some 52#6 ∧ (inCommand .send 51).mpc ≠ 52#6
    ∧ (after (exec (.recv false) (inCommand .recv 41)) (fun t => t.mpc)) = some 42#6
    ∧ (inCommand .recv 41).mpc.toNat ∉ [3, 8, 13, 18, 23, 28, 33, 38] := by decide

/-! ### Witnesses: the whole machine -/

/-- InvariantKeptByStep's hypothesis, in a command and inside a TRANSFER. -/
theorem witness_inv : (withCaller (inCommand .send 10) (callerIn (writeCall .issuePayload))).Inv := by
  refine ⟨by unfold State.EngineInv; decide, by unfold State.LifeInv; decide, ?_, by unfold State.SizesInv; decide⟩
  intro c hc
  simp only [withCaller, List.mem_singleton] at hc
  subst hc
  refine ⟨by decide, fun t ht => ?_, by decide⟩
  simp only [callerIn, Option.some.injEq] at ht
  subst ht
  decide

/-- A step from that state answers a next state. -/
theorem witness_InvariantKeptByStep :
    (after (step (withCaller (inCommand .send 10) (callerIn (writeCall .issuePayload)))) (fun t => t.mpc)) = some 11#6
      ∧ (after (step { inCommand .send 52 with sclOut := true }) (fun t => t.mpc)) = some 53#6 := by decide

/-- LIFE's clauses: a failed and a successful INIT, TEARDOWN, and nothing after it. -/
theorem witness_LifecycleIsOneWay :
    (after (step (withCaller powerOn (callerOf (.init none)))) (fun t => t.life)) = some .unconfigured
      ∧ (after (step (withCaller { powerOn with inputs := { powerOn.inputs with alloc := [false] } }
          (callerOf (.init (some (4, 5, 100000)))))) (fun t => t.life)) = some .configured
      ∧ (after (step (withCaller idle (callerOf .teardown))) (fun t => t.life)) = some .configured
      ∧ (after (step (withCaller idle waiting)) (fun t => t.life)) = some .tornDown
      ∧ (after (step { idle with life := .tornDown }) (fun t => t.life)) = some .tornDown
      ∧ (after (step { idle with port := some 0x0000#16 }) (fun t => t.guard)) = some true := by decide

theorem witness_LifecycleIsOneWay_cfg :
    (after (step (withCaller { powerOn with inputs := { powerOn.inputs with alloc := [false] } }
      (callerOf (.init (some (4, 5, 100000)))))) (fun t => t.cfg.clockRate)) = some 100000 := by decide

theorem witness_DriversChangeOnlyBySet_inv : (inCommand .stop 0).LifeInv := by
  unfold State.LifeInv
  decide

/-- R39: a running SEND reads SHIFT, a START does not, and a machine for which SHIFT has no value faults in the first only. -/
theorem test_unspecified_read :
    (match Checked.step { state := { inCommand .send 0 with sclOut := false }, unspecified := [.shift] } with
      | .fault f => some f
      | _ => none) = some (.unspecifiedRead .shift)
      ∧ (match Checked.step { state := inCommand .start 0, unspecified := [.shift] } with
        | .next d => some d.unspecified
        | _ => none) = some [.shift] := by decide

/-- ResetState's invariant at an acceptance, and two states that differ in an unread element only. -/
theorem witness_ResetState : ({ idle with port := some 0xA502#16 } : State).hideUnread =
      ({ idle with port := some 0xA502#16, shift := 0xFF#8, op := .recv } : State).hideUnread
    ∧ (match Checked.step { state := { idle with port := some 0xA502#16 }, unspecified := [.shift, .op, .mpc, .ackReq, .ackBit] } with
      | .next d => some d.unspecified
      | _ => none) = some [.ackReq, .ackBit, .rspStatus, .rspData] := by decide

theorem witness_ResetState_inv : Checked.Inv { state := { idle with port := some 0xA502#16 }, unspecified := [.shift, .op, .mpc] } := by
  refine ⟨by unfold State.EngineInv; decide, by decide⟩

theorem witness_TraceIsAppendOnly : (after (step (inCommand .start 1)) (fun t => t.trace)) = some [.delay] := by decide

/-- A driver that changes in a command, and one that TEARDOWN changes. -/
theorem witness_DriversChangeOnlyBySet : (after (step (inCommand .stop 0)) (fun t => t.driver .sda)) = some false
    ∧ (inCommand .stop 0).driver .sda = true
    ∧ (after (step (withCaller { idle with sclOut := false } waiting)) (fun t => t.driver .scl)) = some true := by decide

/-- Each data register changes somewhere. -/
theorem witness_WritersOfDataRegisters :
    (after (step { idle with port := some 0xA502#16 }) (fun t => t.shift)) = some 0xA5#8
      ∧ (after (step { idle with port := some 0x0007#16 }) (fun t => t.ackReq)) = some true
      ∧ (after (step (sampling (inCommand .send 52) true)) (fun t => t.ackBit)) = some true ∧ idle.ackBit = false
      ∧ (after (step (sampling (inCommand .recv 38) true)) (fun t => t.shift)) = some 0x01#8 := by decide

theorem witness_ResponseHeldUntilNextAcceptance : ({ idle with rspValid := true } : State).life ≠ .unconfigured
    ∧ ({ idle with rspValid := true } : State).rspValid = true
    ∧ (after (step { idle with rspValid := true }) (fun t => t.rspValid)) = some true
    ∧ (after (step { idle with rspValid := true, port := some 0x0001#16 }) (fun t => t.rspValid)) = some false := by decide

theorem witness_ResponseHeld_inv : ({ idle with rspValid := true } : State).EngineInv := by
  unfold State.EngineInv
  decide

/-- A command's completion, an INIT, a TEARDOWN, a call's return, a call turned away. -/
theorem witness_StatusesPerOperation : (after (step (inCommand .send 54)) (fun t => t.guard)) = some false
    ∧ (after (step (inCommand .recv 47)) (fun t => t.guard)) = some false
    ∧ Call.wf params (readCall (.issueStop .payloadDone)) = true
    ∧ (readCall (.issueStop .payloadDone)).onResponse .ok 0#8 = .returns .ok []
    ∧ (withCaller idle (callerOf .teardown)).callers[0]? = some (callerOf .teardown)
    ∧ (after ((withCaller idle (callerOf (.transfer true none none))).beginTransfer 0 (callerOf (.transfer true none none)) true none none)
        (fun t => t.callers.length)) = some 1 := by decide

/-! ### Witnesses: lifecycle -/

/-- R23: a pin id or a rate that its field cannot hold, the lowest of each; nothing changes. -/
theorem test_init_too_wide : (match powerOn.init (some (256, 5, 100000)), powerOn.init (some (4, 256, 100000)),
      powerOn.init (some (4, 5, 1048576)) with
    | .next (t, a), .next (u, b), .next (v, c) => some (decide (t = powerOn ∧ u = powerOn ∧ v = powerOn), a, b, c)
    | _, _, _ => none) = some (true, .configurationError, .configurationError, .configurationError) := by decide

/-- INIT's clauses at the bounds of its fields. -/
theorem witness_InitConfiguresBus : idle.life ≠ .unconfigured ∧ State.reset.life = .unconfigured
    ∧ (255 < 2 ^ params.pinW ∧ 0 < 2 ^ params.pinW ∧ 1048575 < 2 ^ params.rateW ∧ (1048575 : Nat) ≠ 0 ∧ (255 : Nat) ≠ 0)
    ∧ ({ State.reset.inputs with alloc := [true] } : Inputs).nextAllocFails = true
    ∧ ({ State.reset.inputs with alloc := [false] } : Inputs).nextAllocFails = false := by decide

/-- Two callers' TEARDOWNs that waited for the same command: the second runs too, with OK (R245). -/
theorem test_second_teardown : (match Machine.step { withCaller idle waiting with life := .tornDown } with
    | .next t => some (t.life, t.trace, t.callers.map (fun c => c.history))
    | _ => none) = some (.tornDown, [.set .scl true, .set .sda true], [[.teardownReturned .ok]]) := by decide

/-- A TEARDOWN refused at its check, one that passes it, one that waits for GUARD = 0 and one that acts. -/
theorem witness_TeardownReleasesBus : powerOn.life ≠ .configured ∧ idle.life = .configured
    ∧ (callerOf .teardown).pending = [.teardown] ∧ (callerOf .teardown).tearingDown = false ∧ waiting.pending = [.teardown]
    ∧ waiting.tearingDown = true ∧ waiting.call = none
    ∧ (withCaller powerOn (callerOf .teardown)).callers[0]? = some (callerOf .teardown)
    ∧ (withCaller idle waiting).callers[0]? = some waiting
    ∧ (withCaller (inCommand .start 0) waiting).canMove 0 waiting = false ∧ (withCaller idle waiting).canMove 0 waiting = true
    ∧ (withCaller idle waiting).owner ≠ some 0
    ∧ (after (step (inCommand .start 0)) (fun t => t.life)) = some .configured := by decide

theorem witness_CallerRunsLifecycle : (withCaller idle (callerOf .teardown)).owner = none
    ∧ (withCaller idle (callerOf .teardown)).port = none ∧ (withCaller idle (callerOf .teardown)).guard = false
    ∧ (after (step (withCaller idle (callerOf .teardown))) (fun t => t.callers.map (fun c => c.tearingDown))) = some [true]
    ∧ (match (withCaller idle waiting).teardown with
        | .next (_, st) => some st
        | _ => none) = some .ok
    ∧ (match (withCaller powerOn (callerOf (.init none))).init none with
        | .next (_, st) => some st
        | _ => none) = some .configurationError
    ∧ (after (step (withCaller powerOn (callerOf (.init (some (256, 5, 1)))))) (fun t => t.callers.map (fun c => c.history))) =
        some [[.initReturned .configurationError]]
    ∧ 2 ^ powerOn.params.pinW ≤ 256 := by decide

/-! ### Witnesses: TRANSFER -/

/-- A caller about to run TRANSFER, for each clause: absent inputs, disagreement, and length 1 and MAX_LEN accepted. -/
theorem witness_TransferValidation :
    (withCaller idle (callerOf (.transfer false none none))).callers[0]? = some (callerOf (.transfer false none none))
      ∧ (callerOf (.transfer false none none)).call = none
      ∧ validate params true (some { addr7 := 0#7, dir := .read }) (some { buf := [], len := 0, dir := .read }) = .invalid
      ∧ validate params true (some { addr7 := 0#7, dir := .read }) (some { buf := [], len := 1, dir := .write }) =
          .refused .directionMismatch
      ∧ validate params true (some { addr7 := 0#7, dir := .read }) (some { buf := [], len := 1, dir := .read }) =
          .valid { addr7 := 0#7, dir := .read } { buf := [], len := 1, dir := .read }
      ∧ validate params true (some { addr7 := 0#7, dir := .read }) (some { buf := [], len := 16, dir := .read }) =
          .valid { addr7 := 0#7, dir := .read } { buf := [], len := 16, dir := .read } := by decide

/-- Both clauses on ATTEMPT, at 2 and at 3. -/
theorem witness_TransferAddressPhase : (writeCall .issueAddr).point = .issueAddr
    ∧ ({ writeCall .issueAddr with attempt := 2 } : Call).attempt < 3 ∧ 3 ≤ (readCall .issueAddr).attempt := by decide

/-- A write and a read, at the last byte. -/
theorem witness_TransferPayloadLoop : (writeCall .issuePayload).idx < (writeCall .issuePayload).len
    ∧ (writeCall .issuePayload).dir = .write ∧ (readCall .issuePayload).dir = .read
    ∧ (readCall .issuePayload).idx = (readCall .issuePayload).len - 1 := by decide

/-- The opening of an attempt, and the deadline's two clauses: 1,000,000 us after T0 is within it, 1,000,001 us is past it (V85,
V86). -/
theorem witness_TransferDeadline :
    (withCaller idle (callerIn (writeCall .readT0))).callers[0]? = some (callerIn (writeCall .readT0))
      ∧ (callerIn (writeCall .readT0)).call = some (writeCall .readT0)
      ∧ (after ((withCaller { idle with inputs := { idle.inputs with elapsed := [4] } } (callerIn (writeCall .readT0))).callerStep 0)
          (fun t => t.callers.map (fun c => (c.history, c.call.map (fun x => (x.t0, x.point)))))) =
            some [([.now 11], some (11, .issueStart))]
      ∧ (withCaller idle (callerIn (writeCall .check))).callers[0]? = some (callerIn (writeCall .check))
      ∧ (callerIn (writeCall .check)).call = some (writeCall .check)
      ∧ ¬ (({ idle with inputs := { idle.inputs with elapsed := [999998] } } : State).nextNow (callerIn (writeCall .check))
          - (writeCall .check).t0 > 1000000)
      ∧ ({ idle with inputs := { idle.inputs with elapsed := [999999] } } : State).nextNow (callerIn (writeCall .check))
          - (writeCall .check).t0 > 1000000 := by decide

/-- Success, a failure with an attempt left, the third failure, a NACKed address with an attempt left and without one, and a caller in
its backoff. -/
theorem witness_TransferRetries : (writeCall (.issueStop .payloadDone)).st = .ok
    ∧ (({ writeCall (.issueStop .payloadDone) with st := .busError, attempt := 2 } : Call).st ≠ .ok
      ∧ ({ writeCall (.issueStop .payloadDone) with st := .busError, attempt := 2 } : Call).attempt < 3)
    ∧ 3 ≤ ({ readCall (.issueStop .payloadDone) with st := .busError } : Call).attempt
    ∧ ({ writeCall (.issueStop .addrNack) with attempt := 2 } : Call).attempt < 3
    ∧ 3 ≤ (readCall (.issueStop .addrNack)).attempt
    ∧ (withCaller idle (callerIn (writeCall .backoff))).callers[0]? = some (callerIn (writeCall .backoff))
    ∧ (callerIn (writeCall .backoff)).call = some (writeCall .backoff)
    ∧ (after ((withCaller idle (callerIn (writeCall .backoff))).callerStep 0) (fun t => t.callers.map (fun c => c.history))) =
        some [[.waitUs 1000]] := by decide

/-- A read's last byte, and a write's. -/
theorem witness_TransferBufferAccesses : Call.wf params (readCall .issuePayload) = true
    ∧ (readCall .issuePayload).onResponse .ok 0x5A#8 = .goes { readCall (.issueStop .payloadDone) with buf := [(2, 0x5A#8)] }
    ∧ Call.wf params (writeCall .issuePayload) = true
    ∧ (writeCall .issuePayload).onResponse .ok 0x00#8 = .goes (writeCall (.issueStop .payloadDone)) := by decide

theorem witness_TransferCommandsAreBounded : Call.wf params (writeCall .issueStart) = true ∧ (writeCall .issueStart).point.issues = true
    ∧ (writeCall .issueStart).onResponse .ok 0x00#8 = .goes (writeCall .issueAddr)
    ∧ Call.wf params { writeCall .backoff with attempt := 2 } = true := by decide

/-- A lone caller about to issue each kind of command. -/
theorem witness_CommandRoundTrip : (withCaller idle (callerIn (writeCall .issueAddr))).life = .configured
    ∧ (withCaller idle (callerIn (writeCall .issueAddr))).guard = false
    ∧ (withCaller idle (callerIn (writeCall .issueAddr))).port = none
    ∧ (withCaller idle (callerIn (writeCall .issueAddr))).owner = none
    ∧ (writeCall .issueAddr).point.issues = true ∧ (writeCall .issueAddr).indexOk = true
    ∧ (writeCall .issueStart).command = .start ∧ (writeCall .issuePayload).command = .send 0x01#8
    ∧ (readCall .issuePayload).command = .recv false ∧ (readCall .issuePayload).indexOk = true
    ∧ (writeCall (.issueStop .deadline)).command = .stop := by decide

/-- A reading of NOW() that stands still, which R220 allows. -/
theorem witness_NowIsMonotonic :
    (after (step (withCaller { idle with inputs := { idle.inputs with elapsed := [0] } } (callerIn (writeCall .check))))
      (fun t => t.callers.map (fun c => (c.clock, c.history)))) = some [(7, [.now 7])] := by decide

/-- A caller that issues START for ever, and one that waits to issue STOP. -/
def rivals : State :=
  { idle with callers := [{ Caller.fresh with again := [.issue 0x0000#16] }, callerOf (.issue 0x0001#16)] }

/-- The first of them moves, and its operation is still to do when it is done. -/
theorem witness_starvation : rivals.life = .configured ∧ rivals.guard = false ∧ rivals.port = none ∧ rivals.owner = none
    ∧ (callerOf (.issue 0x0001#16)).wantsBus = true ∧ rivals.movers = [0, 1]
    ∧ (after (step { rivals with inputs := { rivals.inputs with grant := [0] } }) (fun t => (t.owner, t.port))) =
        some (some 0, some 0x0000#16)
    ∧ ({ Caller.fresh with again := [.issue 0x0000#16] } : Caller).finish.pending = [.issue 0x0000#16] := by decide

/-- Two callers that can both move. -/
theorem witness_AnyWaitingCallerMayMove :
    ({ idle with callers := [callerOf (.issue 0x0000#16), callerOf (.issue 0x0001#16)] } : State).movers = [0, 1]
      ∧ ({ idle with callers := [callerOf (.issue 0x0000#16), callerOf (.issue 0x0001#16)] } : State).owner = none := by decide

/-- Caller 0's response is not collected yet, and caller 1 wants to issue. -/
def uncollected : State :=
  { idle with
    owner := some 0, rspValid := true, callers := [callerOf (.issue 0x0000#16), callerOf (.issue 0x0001#16)] }

theorem witness_ResponseGoesToItsCaller :
    (withCaller { idle with owner := some 0, rspValid := true } (callerOf (.issue 0x0000#16))).callers[0]? =
        some (callerOf (.issue 0x0000#16))
      ∧ (match (callerOf (.issue 0x0000#16)).onResponse .ok 0x00#8 with
          | .next c => some c.history
          | _ => none) = some [.response .ok 0x00#8]
      ∧ uncollected.owner = some 0
      ∧ (after (uncollected.agentStep (.caller 1)) (fun t => decide (t = uncollected))) = some true
      ∧ (after (uncollected.agentStep (.caller 0)) (fun t => (t.owner, t.callers.map (fun c => c.history)))) =
          some (none, [[.response .ok 0x00#8], []]) := by decide

/-- Two buses that can both step. -/
theorem witness_BusesAreIndependent :
    (match System.stepBus { buses := [inCommand .start 0, inCommand .stop 0] } 1 with
      | .next y => some (y.buses.map (fun s => s.mpc))
      | _ => none) = some [0#6, 1#6] := by decide

theorem witness_HalfBitDelays : 0 < (100000 : Nat) := by decide

theorem witness_HazardsOnTheWire : (0x00#8).getLsbD 7 = false ∧ (0x80#8).getLsbD 7 = true
    ∧ sclRisesOf noDevice ⟨true, true⟩ (traceOf 0#8 true recvTable [true]) = 8 := by decide

end Sys2Proof.Tests
end

section
/-! PROOFS. The buses of a system are independent (R19, R62). -/

namespace Sys2Proof.Machine

variable {y z a b : System} {n m : Nat}

/-! ### `System.stepBus`: no such bus, and a bus that steps -/

theorem System.stepBus_of_none (hn : y.buses[n]? = none) : y.stepBus n = .next y := by
  simp only [System.stepBus, hn]

theorem System.stepBus_eq_next_iff_of_some {s : State} (hn : y.buses[n]? = some s) :
    y.stepBus n = .next z ↔ ∃ t, step s = .next t ∧ { buses := y.buses.set n t } = z := by
  cases hs : step s <;> simp [System.stepBus, hn, hs]

/-- What a step of bus `n` does is fixed by bus `n` alone: one state `t` is put at `n`, in every system whose bus `n` is the same. Where
there is no bus `n`, putting a state there changes nothing, so any `t` serves. -/
theorem System.stepBus_eq_set (h : y.stepBus n = .next z) :
    ∃ t, z.buses = y.buses.set n t
      ∧ ∀ y' : System, y'.buses[n]? = y.buses[n]? → y'.stepBus n = .next { buses := y'.buses.set n t } := by
  cases hn : y.buses[n]? with
  | none =>
    have set_of_none (x : System) (hx : x.buses[n]? = none) : x.buses.set n State.reset = x.buses :=
      List.set_eq_of_length_le (List.getElem?_eq_none_iff.mp hx)
    obtain rfl : y = z := by simpa [stepBus_of_none hn] using h
    refine ⟨State.reset, (set_of_none y hn).symm, fun y' hy' => ?_⟩
    rw [set_of_none y' hy', stepBus_of_none hy']
  | some s =>
    obtain ⟨t, hs, rfl⟩ := (stepBus_eq_next_iff_of_some hn).mp h
    exact ⟨t, rfl, fun y' hy' => (stepBus_eq_next_iff_of_some hy').mpr ⟨t, hs, rfl⟩⟩

/-! ### What a step of one bus leaves unchanged, and the order of two steps -/

theorem System.stepBus_length (h : y.stepBus n = .next z) : z.buses.length = y.buses.length := by
  obtain ⟨t, hz, -⟩ := stepBus_eq_set h
  simp [hz]

theorem System.stepBus_getElem?_of_ne (h : y.stepBus n = .next z) (hne : n ≠ m) : z.buses[m]? = y.buses[m]? := by
  obtain ⟨t, hz, -⟩ := stepBus_eq_set h
  rw [hz, List.getElem?_set_ne hne]

/-- Each bus still finds itself as it was after the other's step, so it takes the step it would have taken before; the two writes are at
different places of the list. -/
theorem System.stepBus_comm (hne : n ≠ m) (ha : y.stepBus n = .next a) (hb : y.stepBus m = .next b) :
    ∃ z, a.stepBus m = .next z ∧ b.stepBus n = .next z := by
  obtain ⟨t, hat, hn⟩ := stepBus_eq_set ha
  obtain ⟨u, hbu, hm⟩ := stepBus_eq_set hb
  refine ⟨{ buses := a.buses.set m u }, hm a (stepBus_getElem?_of_ne ha hne), ?_⟩
  rw [hn b (stepBus_getElem?_of_ne hb hne.symm), hat, hbu, List.set_comm _ _ hne]

/-- Settles O58: a step of bus `n` reads bus `n` and writes bus `n`, and nothing else. -/
theorem busesAreIndependent : Obligations.BusesAreIndependent :=
  ⟨fun _ _ _ _ h => ⟨System.stepBus_length h, fun hne => System.stepBus_getElem?_of_ne h hne.symm⟩,
    fun _ _ _ _ _ hne ha hb => System.stepBus_comm hne ha hb⟩

end Sys2Proof.Machine
end

section
/-! PROOFS. The encoding: the opcode map against the decoder (R72, R75), and the pseudo-instructions (R83). -/

namespace Sys2Proof

/-! ### A command word and its fields (R71) -/

/-- The four fields cover the word (R71), so they determine it. -/
theorem fieldsOf_injective : Function.Injective fieldsOf := by
  intro w v h
  obtain ⟨hop, hack, hrsv, hdata⟩ := Fields.mk.inj h
  have field {start len : Nat} (hf : w.extractLsb' start len = v.extractLsb' start len) (i : Nat) (hi : i < len) :
      w.getLsbD (start + i) = v.getLsbD (start + i) := by
    simpa [hi] using congrArg (·.getLsbD i) hf
  apply BitVec.eq_of_getLsbD_eq
  intro i hi
  rcases lt_trichotomy i 2 with hlt | rfl | hgt
  · simpa using field hop i hlt
  · exact hack
  · rcases Nat.lt_or_ge i 8 with hlt | hge
    · simpa [Nat.add_sub_cancel' hgt] using field hrsv (i - 3) (by omega)
    · simpa [Nat.add_sub_cancel' hge] using field hdata (i - 8) (by omega)

/-- Masking a word masks each field by the mask's. -/
theorem fieldsOf_and (w m : Cmd) :
    fieldsOf (w &&& m) =
      { op := (fieldsOf w).op &&& (fieldsOf m).op
        ack := (fieldsOf w).ack && (fieldsOf m).ack
        rsv := (fieldsOf w).rsv &&& (fieldsOf m).rsv
        data := (fieldsOf w).data &&& (fieldsOf m).data } := by
  simp [fieldsOf, BitVec.extractLsb'_and]

/-- R72's test `(cmd & mask) = match`, field by field. -/
theorem and_eq_iff_fieldsOf (w m p : Cmd) :
    w &&& m = p ↔
      (fieldsOf w).op &&& (fieldsOf m).op = (fieldsOf p).op
      ∧ ((fieldsOf w).ack && (fieldsOf m).ack) = (fieldsOf p).ack
      ∧ (fieldsOf w).rsv &&& (fieldsOf m).rsv = (fieldsOf p).rsv
      ∧ (fieldsOf w).data &&& (fieldsOf m).data = (fieldsOf p).data := by
  rw [← fieldsOf_injective.eq_iff, fieldsOf_and]
  exact Iff.of_eq (Fields.mk.injEq ..)

/-! ### What the fields of a word that decodes are (R75) -/

theorem decodeFields_eq_start_iff (f : Fields) :
    decodeFields f = .ok .start ↔ f.op = 0#2 ∧ f.ack = false ∧ f.rsv = 0#5 ∧ f.data = 0#8 := by
  unfold decodeFields
  split_ifs <;> simp_all

theorem decodeFields_eq_stop_iff (f : Fields) :
    decodeFields f = .ok .stop ↔ f.op = 1#2 ∧ f.ack = false ∧ f.rsv = 0#5 ∧ f.data = 0#8 := by
  unfold decodeFields
  split_ifs <;> simp_all

theorem decodeFields_eq_send_iff (f : Fields) (b : Byte) :
    decodeFields f = .ok (.send b) ↔ (f.op = 2#2 ∧ f.ack = false ∧ f.rsv = 0#5) ∧ f.data = b := by
  unfold decodeFields
  split_ifs <;> simp_all

/-- RECV's opcode is the one that the decoder's three tests of `cmd[1:0]` leave. -/
theorem op_eq_three_iff (op : BitVec 2) : op = 3#2 ↔ op ≠ 0#2 ∧ op ≠ 1#2 ∧ op ≠ 2#2 := by
  revert op
  decide

theorem decodeFields_eq_recv_iff (f : Fields) (a : Bool) :
    decodeFields f = .ok (.recv a) ↔ (f.op = 3#2 ∧ f.rsv = 0#5 ∧ f.data = 0#8) ∧ f.ack = a := by
  rw [op_eq_three_iff]
  unfold decodeFields
  split_ifs <;> simp_all

/-! ### The rows of the opcode map (R72) -/

theorem fieldsOf_startMask : fieldsOf 0xFFFF#16 = { op := .allOnes 2, ack := true, rsv := .allOnes 5, data := .allOnes 8 } := by
  decide

theorem fieldsOf_sendMask : fieldsOf 0x00FF#16 = { op := .allOnes 2, ack := true, rsv := .allOnes 5, data := 0#8 } := by
  decide

theorem fieldsOf_recvMask : fieldsOf 0xFFFB#16 = { op := .allOnes 2, ack := false, rsv := .allOnes 5, data := .allOnes 8 } := by
  decide

/-- Every pattern of the map is its opcode, widened. -/
theorem fieldsOf_setWidth (op : BitVec 2) : fieldsOf (op.setWidth 16) = { op := op, ack := false, rsv := 0#5, data := 0#8 } := by
  revert op
  decide

/-- START's and STOP's mask tests every field. -/
theorem and_startMask_eq_iff (w : Cmd) (op : BitVec 2) :
    w &&& 0xFFFF#16 = op.setWidth 16 ↔
      (fieldsOf w).op = op ∧ (fieldsOf w).ack = false ∧ (fieldsOf w).rsv = 0#5 ∧ (fieldsOf w).data = 0#8 := by
  simp only [and_eq_iff_fieldsOf, fieldsOf_startMask, fieldsOf_setWidth, BitVec.and_allOnes, Bool.and_true]

/-- SEND's mask leaves the data field free. -/
theorem and_sendMask_eq_iff (w : Cmd) (op : BitVec 2) :
    w &&& 0x00FF#16 = op.setWidth 16 ↔ (fieldsOf w).op = op ∧ (fieldsOf w).ack = false ∧ (fieldsOf w).rsv = 0#5 := by
  simp only [and_eq_iff_fieldsOf, fieldsOf_sendMask, fieldsOf_setWidth, BitVec.and_allOnes, Bool.and_true, BitVec.and_zero, and_true]

/-- RECV's mask leaves the acknowledge bit free. -/
theorem and_recvMask_eq_iff (w : Cmd) (op : BitVec 2) :
    w &&& 0xFFFB#16 = op.setWidth 16 ↔ (fieldsOf w).op = op ∧ (fieldsOf w).rsv = 0#5 ∧ (fieldsOf w).data = 0#8 := by
  simp only [and_eq_iff_fieldsOf, fieldsOf_recvMask, fieldsOf_setWidth, BitVec.and_allOnes, Bool.and_false, true_and]

/-- Every row tests `cmd[1:0]` whole, so the word that selects it has its pattern's opcode. -/
theorem OpcodeRow.op_of_selects {r : OpcodeRow} {w : Cmd} (hr : r ∈ opcodeMap) (hw : r.selects w = true) :
    (fieldsOf w).op = (fieldsOf r.pattern).op := by
  have mask_op : ∀ r ∈ opcodeMap, (fieldsOf r.mask).op = .allOnes 2 := by decide
  obtain ⟨hop, -⟩ := (and_eq_iff_fieldsOf w r.mask r.pattern).mp (beq_iff_eq.mp hw)
  rwa [mask_op r hr, BitVec.and_allOnes] at hop

/-- The four patterns are disjoint: each has another opcode. -/
theorem opcodeMap_eq_of_pattern_op :
    ∀ r ∈ opcodeMap, ∀ r' ∈ opcodeMap, (fieldsOf r.pattern).op = (fieldsOf r'.pattern).op → r = r' := by
  decide

/-- Settles O3: decoding to a row's command and passing its mask test are the same conditions on the word's fields, and a word's own
opcode tells the rows apart. -/
theorem opcodeMapSelects : Obligations.OpcodeMapSelects := by
  intro w
  refine ⟨?start, ?stop, fun b => ?send, fun a => ?recv, fun r hr r' hr' hw hw' => ?disjoint⟩
  case start => exact (decodeFields_eq_start_iff _).trans (and_startMask_eq_iff w 0#2).symm
  case stop => exact (decodeFields_eq_stop_iff _).trans (and_startMask_eq_iff w 1#2).symm
  case send => exact (decodeFields_eq_send_iff _ b).trans (and_congr (and_sendMask_eq_iff w 2#2).symm eq_comm)
  case recv => exact (decodeFields_eq_recv_iff _ a).trans (and_congr (and_recvMask_eq_iff w 3#2).symm eq_comm)
  case disjoint =>
    have same_op : (fieldsOf r.pattern).op = (fieldsOf r'.pattern).op :=
      (OpcodeRow.op_of_selects hr hw).symm.trans (OpcodeRow.op_of_selects hr' hw')
    exact opcodeMap_eq_of_pattern_op r hr r' hr' same_op

end Sys2Proof

namespace Sys2Proof.Machine

/-! ### The pseudo-instructions (R83) -/

/-- Settles O7: each expansion is the spec's, with RW in the address byte's lowest bit; READ's `n` is the successor of the number of
bytes it acknowledges. -/
theorem pseudoInstructionsExpand : Obligations.PseudoInstructionsExpand := by
  refine ⟨fun _ => rfl, fun _ => rfl, rfl, fun _ _ _ => rfl, fun a7 n hn => ?_⟩
  cases n with
  | zero => contradiction
  | succ n => rfl

end Sys2Proof.Machine
end

section
/-! PROOFS. The line micro-operations: SAMPLE on the wired-AND (R102, R103), SET and DELAY (R101, R104). -/

namespace Sys2Proof.Machine

/-! ### The lines (R103) -/

theorem State.sdaLine_eq_false_iff (s : State) : s.sdaLine = false ↔ s.sdaOut = false ∨ s.env.sdaRel = false :=
  Bool.and_eq_false_iff

theorem State.sclLine_eq_false_iff (s : State) : s.sclLine = false ↔ s.sclOut = false ∨ s.env.sclRel = false :=
  Bool.and_eq_false_iff

/-! ### SAMPLE (R102) -/

theorem getLsbD_setBit (b : Byte) (k j : Fin 8) (v : Bool) :
    (setBit b k v).getLsbD j.val = if j = k then v else b.getLsbD j.val := by
  have mask_bit : (1#8 <<< k.val).getLsbD j.val = decide (j = k) := by
    revert j k
    decide
  cases v with
  | false =>
    simp only [setBit, Bool.false_eq_true, if_false, BitVec.getLsbD_and, BitVec.getLsbD_not, j.isLt, decide_true, Bool.true_and,
      mask_bit]
    by_cases hjk : j = k <;> simp [hjk]
  | true =>
    simp only [setBit, if_true, BitVec.getLsbD_or, mask_bit]
    by_cases hjk : j = k <;> simp [hjk]

/-- What a SAMPLE does, whichever register it stores its result in: SHIFT and ACKBIT apart, its effect does not depend on the
destination. -/
theorem State.perform_eq_of_samples (s : State) {m : MicroOp} (hm : m = .sampleAck ∨ ∃ k, m = .sampleBit k) :
    ∃ shift ackBit, s.perform m =
      { s with
        shift := shift, ackBit := ackBit, trace := s.trace ++ [.sample s.sampleLevel], mpc := s.mpc + 1#6,
        env := s.inputs.nextDrive, inputs := s.inputs.dropDrive } := by
  obtain rfl | ⟨k, rfl⟩ := hm
  · exact ⟨s.shift, s.sampleLevel, rfl⟩
  · exact ⟨setBit s.shift k s.sampleLevel, s.ackBit, rfl⟩

/-- A SAMPLE returns the level of the line at its instant, once the drive is drawn. -/
theorem State.sdaLine_perform_of_samples (s : State) {m : MicroOp} (hm : m = .sampleAck ∨ ∃ k, m = .sampleBit k) :
    (s.perform m).sdaLine = s.sampleLevel := by
  obtain ⟨shift, ackBit, hperform⟩ := s.perform_eq_of_samples hm
  rw [hperform]
  rfl

/-- Settles O26: what a SAMPLE does apart from its destination is said once for both, and the destination follows from
`State.perform_shift` and `State.perform_ackBit`. -/
theorem lineIsWiredAnd : Obligations.LineIsWiredAnd := by
  intro s
  refine ⟨s.sdaLine_eq_false_iff, s.sclLine_eq_false_iff, (s.sdaLine_perform_of_samples (.inl rfl)).symm, s.perform_ackBit _,
    fun k => ⟨(s.sdaLine_perform_of_samples (.inr ⟨k, rfl⟩)).symm, ?stored, fun j hjk => ?otherBits⟩, fun m hm => ?effect, ?low,
    ?released⟩
  case stored => rw [State.perform_shift, getLsbD_setBit, if_pos rfl]
  case otherBits => rw [State.perform_shift, getLsbD_setBit, if_neg hjk]
  case effect =>
    have shift_kept : m = .sampleAck → (s.perform m).shift = s.shift := by
      rintro rfl
      exact s.perform_shift _
    have ackBit_kept : (∃ k, m = .sampleBit k) → (s.perform m).ackBit = s.ackBit := by
      rintro ⟨k, rfl⟩
      exact s.perform_ackBit _
    obtain ⟨elapsed_kept, alloc_kept, grant_kept, stream_kept⟩ := Inputs.dropDrive_host s.inputs
    obtain ⟨shift, ackBit, hperform⟩ := s.perform_eq_of_samples hm
    rw [hperform] at shift_kept ackBit_kept ⊢
    exact ⟨rfl, rfl, rfl, elapsed_kept, alloc_kept, grant_kept, stream_kept, shift_kept, ackBit_kept, rfl⟩
  case low =>
    intro hlow
    rw [State.sampleLevel_eq, hlow, Bool.false_and]
  case released =>
    intro hreleased
    rw [State.sampleLevel_eq, hreleased, Bool.true_and]

/-! ### SET and DELAY (R101, R104) -/

theorem State.perform_set_frame (s : State) (l : Line) (v : Bool) :
    { s.perform (.set l v) with sclOut := s.sclOut, sdaOut := s.sdaOut, trace := s.trace, mpc := s.mpc } = s := by
  cases l <;> rfl

theorem State.driver_perform_set (s : State) (l l' : Line) (v : Bool) :
    (s.perform (.set l v)).driver l' = if l = l' then v else s.driver l' :=
  s.driver_perform (.set l v) l'

/-- Settles O28: the driver, TRACE and MPC are those of every micro-operation (`State.driver_perform`, `State.perform_trace`,
`State.perform_mpc`); no other field is written. -/
theorem setAndDelayFrame : Obligations.SetAndDelayFrame := by
  refine ⟨fun s l v => ⟨?driven, fun l' hne => ?otherLine, s.perform_trace _, s.perform_mpc _, s.perform_set_frame l v⟩,
    fun s => ⟨s.perform_trace _, s.perform_mpc _, rfl⟩⟩
  case driven => rw [State.driver_perform_set, if_pos rfl]
  case otherLine => rw [State.driver_perform_set, if_neg hne.symm]

end Sys2Proof.Machine
end

section
/-! PROOFS. What the rows of a command's table do: the events they append to TRACE, the lines they drive and the registers they write
(R124, R127, R130, R134). -/

namespace Sys2Proof.Machine

/-! ### The events of some rows -/

/-- The TRACE entries of some rows performed one after the other from `s` on. -/
def State.eventsOf (s : State) : List MicroRow → List Event
  | [] => []
  | r :: rows => s.eventOf r.op :: (s.perform r.op).eventsOf rows

@[simp] theorem State.eventsOf_nil (s : State) : s.eventsOf [] = [] := rfl

@[simp] theorem State.eventsOf_cons (s : State) (r : MicroRow) (rows : List MicroRow) :
    s.eventsOf (r :: rows) = s.eventOf r.op :: (s.perform r.op).eventsOf rows := rfl

@[simp] theorem State.performRows_append (s : State) (rows rows' : List MicroRow) :
    s.performRows (rows ++ rows') = (s.performRows rows).performRows rows' :=
  List.foldl_append

theorem State.eventsOf_append (s : State) (rows rows' : List MicroRow) :
    s.eventsOf (rows ++ rows') = s.eventsOf rows ++ (s.performRows rows).eventsOf rows' := by
  induction rows generalizing s with
  | nil => rfl
  | cons r rows ih => simp [ih]

theorem State.performRows_trace (s : State) (rows : List MicroRow) :
    (s.performRows rows).trace = s.trace ++ s.eventsOf rows := by
  induction rows generalizing s with
  | nil => simp
  | cons r rows ih => simp [ih]

/-- SDA's driver after a micro-operation (`State.driver_perform`). -/
theorem State.perform_sdaOut (s : State) (m : MicroOp) :
    (s.perform m).sdaOut =
      match m with
      | .set .sda v => v
      | .setShiftBit k => s.shift.getLsbD k.val
      | .setAckReq => !s.ackReq
      | _ => s.sdaOut := by
  cases m with
  | set l v => cases l <;> rfl
  | _ => rfl

theorem State.drivers_perform (s : State) (m : MicroOp) : (s.perform m).drivers = s.drivers.after (s.eventOf m) := by
  cases m with
  | set l v => cases l <;> rfl
  | _ => rfl

/-- TRACE determines the lines: the rows leave them as their events do. -/
theorem State.drivers_performRows (s : State) (rows : List MicroRow) :
    (s.performRows rows).drivers = driversAfter s.drivers (s.eventsOf rows) := by
  induction rows generalizing s with
  | nil => rfl
  | cons r rows ih => simp [ih, State.drivers_perform, driversAfter]

/-! ### The registers some rows leave alone -/

theorem State.performRows_shift_of_no_sampleBit {rows : List MicroRow} (hrows : ∀ r ∈ rows, ∀ k, r.op ≠ .sampleBit k) (s : State) :
    (s.performRows rows).shift = s.shift := by
  induction rows generalizing s with
  | nil => rfl
  | cons r rows ih =>
    obtain ⟨hr, hrows⟩ := List.forall_mem_cons.mp hrows
    have shift_kept : (s.perform r.op).shift = s.shift := by
      rw [State.perform_shift]
      cases h : r.op with
      | sampleBit k => exact absurd h (hr k)
      | _ => rfl
    rw [State.performRows_cons, ih hrows, shift_kept]

theorem State.performRows_ackBit_of_no_sampleAck {rows : List MicroRow} (hrows : ∀ r ∈ rows, r.op ≠ .sampleAck) (s : State) :
    (s.performRows rows).ackBit = s.ackBit := by
  induction rows generalizing s with
  | nil => rfl
  | cons r rows ih =>
    obtain ⟨hr, hrows⟩ := List.forall_mem_cons.mp hrows
    have ackBit_kept : (s.perform r.op).ackBit = s.ackBit := by
      rw [State.perform_ackBit]
      cases h : r.op with
      | sampleAck => exact absurd h hr
      | _ => rfl
    rw [State.performRows_cons, ih hrows, ackBit_kept]

/-- Only drives are drawn. -/
theorem State.performRows_hostInputs (s : State) (rows : List MicroRow) :
    (s.performRows rows).inputs.elapsed = s.inputs.elapsed ∧ (s.performRows rows).inputs.alloc = s.inputs.alloc
      ∧ (s.performRows rows).inputs.grant = s.inputs.grant ∧ (s.performRows rows).inputs.stream = s.inputs.stream := by
  induction rows generalizing s with
  | nil => simp
  | cons r rows ih =>
    have perform_host : (s.perform r.op).inputs.elapsed = s.inputs.elapsed ∧ (s.perform r.op).inputs.alloc = s.inputs.alloc
        ∧ (s.perform r.op).inputs.grant = s.inputs.grant ∧ (s.perform r.op).inputs.stream = s.inputs.stream := by
      rw [State.perform_inputs]
      cases r.op <;> simp
    obtain ⟨helapsed, halloc, hgrant, hstream⟩ := perform_host
    simpa [helapsed, halloc, hgrant, hstream] using ih (s.perform r.op)

theorem sendTable_no_sampleBit : ∀ r ∈ sendTable, ∀ k, r.op ≠ .sampleBit k := by
  decide

theorem recvTable_no_sampleAck : ∀ r ∈ recvTable, r.op ≠ .sampleAck := by
  decide

/-- The FSM_STATE of a command's micro-operation `n` (R137): SEND and RECV have two phases. -/
def phaseAt : Op → Nat → FsmState
  | .start, _ => .startAsserted
  | .stop, _ => .stopAsserted
  | .send, n => if n < 48 then .bitTransfer else .ackPhase
  | .recv, n => if n < 41 then .bitTransfer else .ackPhase

theorem fsmAt_tableOf (o : Op) {n : Nat} (hn : n < lengthOf o) : fsmAt (tableOf o) n = phaseAt o n := by
  have start_rows : ∀ n < 8, fsmAt startTable n = .startAsserted := by decide
  have stop_rows : ∀ n < 6, fsmAt stopTable n = .stopAsserted := by decide
  have send_rows : ∀ n < 55, fsmAt sendTable n = if n < 48 then .bitTransfer else .ackPhase := by decide
  have recv_rows : ∀ n < 48, fsmAt recvTable n = if n < 41 then .bitTransfer else .ackPhase := by decide
  cases o with
  | start => exact start_rows n hn
  | stop => exact stop_rows n hn
  | send => exact send_rows n hn
  | recv => exact recv_rows n hn

/-! ### START and STOP (R124, R127) -/

/-- The line events of START. -/
def startEvents : List Event :=
  [.set .sda true, .delay, .set .scl true, .delay, .set .sda false, .delay, .set .scl false, .delay]

/-- The line events of STOP. -/
def stopEvents : List Event :=
  [.set .sda false, .delay, .set .scl true, .delay, .set .sda true, .delay]

theorem State.eventsOf_startTable (s : State) : s.eventsOf startTable = startEvents := rfl

theorem State.eventsOf_stopTable (s : State) : s.eventsOf stopTable = stopEvents := rfl

theorem driversAfter_startEvents (d : Drivers) : driversAfter d startEvents = { scl := false, sda := false } := rfl

theorem driversAfter_stopEvents (d : Drivers) : driversAfter d stopEvents = { scl := true, sda := true } := rfl

/-! ### SEND (R130) -/

/-- The line events of bit `k` of the byte `b`. -/
def sendBitEvents (b : Byte) (k : Nat) : List Event :=
  [.set .sda (b.getLsbD k), .delay, .set .scl true, .delay, .set .scl false, .delay]

/-- The line events of the acknowledge bit, sampled as `v`. -/
def sendAckEvents (v : Bool) : List Event :=
  [.set .sda true, .delay, .set .scl true, .delay, .sample v, .set .scl false, .delay]

/-- The line events of SEND. -/
def sendEvents (b : Byte) (v : Bool) : List Event :=
  [7, 6, 5, 4, 3, 2, 1, 0].flatMap (sendBitEvents b) ++ sendAckEvents v

theorem State.performRows_sendBitRows (s : State) (k : Fin 8) :
    (s.performRows (sendBitRows k)).shift = s.shift ∧ (s.performRows (sendBitRows k)).inputs = s.inputs := by
  simp [sendBitRows, State.perform_shift, State.perform_inputs]

/-- The bits are sent without a draw, each from the byte SHIFT holds throughout. -/
theorem State.eventsOf_sendBits (s : State) (ks : List (Fin 8)) :
    s.eventsOf (ks.flatMap sendBitRows) = ks.flatMap (fun k => sendBitEvents s.shift k)
      ∧ (s.performRows (ks.flatMap sendBitRows)).inputs = s.inputs := by
  induction ks generalizing s with
  | nil => exact ⟨rfl, rfl⟩
  | cons k ks ih =>
    obtain ⟨hshift, hinputs⟩ := s.performRows_sendBitRows k
    obtain ⟨hevents, hdraws⟩ := ih (s.performRows (sendBitRows k))
    rw [List.flatMap_cons, State.eventsOf_append, State.performRows_append, hevents, hdraws, hshift, hinputs]
    exact ⟨rfl, rfl⟩

/-- The acknowledge is sampled with SDA released, so it is the environment's drive alone. -/
theorem State.eventsOf_sendAckRows (s : State) :
    s.eventsOf sendAckRows = sendAckEvents s.inputs.nextDrive.sdaRel
      ∧ (s.performRows sendAckRows).ackBit = s.inputs.nextDrive.sdaRel := by
  simp [sendAckRows, sendAckEvents, State.eventOf, State.perform_ackBit, State.perform_inputs, State.sampleLevel_eq,
    State.perform_sdaOut]

theorem State.eventsOf_sendTable (s : State) :
    s.eventsOf sendTable = sendEvents s.shift s.inputs.nextDrive.sdaRel
      ∧ (s.performRows sendTable).ackBit = s.inputs.nextDrive.sdaRel := by
  obtain ⟨hbits, hdraws⟩ := s.eventsOf_sendBits wireOrder
  obtain ⟨hack, hackBit⟩ := (s.performRows (wireOrder.flatMap sendBitRows)).eventsOf_sendAckRows
  rw [sendTable, State.eventsOf_append, State.performRows_append, hbits, hack, hackBit, hdraws]
  exact ⟨rfl, rfl⟩

theorem driversAfter_append (d : Drivers) (es fs : List Event) :
    driversAfter d (es ++ fs) = driversAfter (driversAfter d es) fs :=
  List.foldl_append

theorem driversAfter_sendEvents (d : Drivers) (b : Byte) (v : Bool) :
    driversAfter d (sendEvents b v) = { scl := false, sda := true } := by
  rw [sendEvents, driversAfter_append]
  rfl

/-! ### RECV (R134, R135) -/

/-- The results of the next `n` samples taken with SDA released: the environment's drives, in order. -/
def Inputs.sdaSamples (x : Inputs) (n : Nat) : List Bool :=
  (List.range n).map fun j => (x.driveAt j).sdaRel

theorem Inputs.sdaSamples_succ (x : Inputs) (n : Nat) :
    x.sdaSamples (n + 1) = x.nextDrive.sdaRel :: x.dropDrive.sdaSamples n := by
  rw [Inputs.sdaSamples, List.range_succ_eq_map, List.map_cons, List.map_map]
  rfl

/-- The samples `vs` stored into the bits `ks` of a byte, one after the other. -/
def storeBits (b : Byte) : List (Fin 8) → List Bool → Byte
  | k :: ks, v :: vs => storeBits (setBit b k v) ks vs
  | _, _ => b

/-- The line events of a bit received as `v`. -/
def recvBitEvents (v : Bool) : List Event :=
  [.set .scl true, .delay, .sample v, .set .scl false, .delay]

/-- The line events of the acknowledge `ack` requests, and the last release of SDA. -/
def recvAckEvents (ack : Bool) : List Event :=
  [.set .sda (!ack), .delay, .set .scl true, .delay, .set .scl false, .delay, .set .sda true]

/-- The line events of RECV. -/
def recvEvents (ack : Bool) (vs : List Bool) : List Event :=
  .set .sda true :: (vs.flatMap recvBitEvents ++ recvAckEvents ack)

theorem State.performRows_recvBitRows (s : State) (k : Fin 8) :
    s.eventsOf (recvBitRows k) = recvBitEvents (s.sdaOut && s.inputs.nextDrive.sdaRel)
      ∧ (s.performRows (recvBitRows k)).shift = setBit s.shift k (s.sdaOut && s.inputs.nextDrive.sdaRel)
      ∧ (s.performRows (recvBitRows k)).inputs = s.inputs.dropDrive
      ∧ (s.performRows (recvBitRows k)).sdaOut = s.sdaOut := by
  simp [recvBitRows, recvBitEvents, State.eventOf, State.perform_shift, State.perform_inputs, State.sampleLevel_eq,
    State.perform_sdaOut]

/-- With SDA released the bits received are the environment's drives, and SDA stays released. -/
theorem State.eventsOf_recvBits (s : State) (ks : List (Fin 8)) (hsda : s.sdaOut = true) :
    s.eventsOf (ks.flatMap recvBitRows) = (s.inputs.sdaSamples ks.length).flatMap recvBitEvents
      ∧ (s.performRows (ks.flatMap recvBitRows)).shift = storeBits s.shift ks (s.inputs.sdaSamples ks.length) := by
  induction ks generalizing s with
  | nil => exact ⟨rfl, rfl⟩
  | cons k ks ih =>
    obtain ⟨hbit, hshift, hinputs, hkept⟩ := s.performRows_recvBitRows k
    obtain ⟨hevents, hbyte⟩ := ih (s.performRows (recvBitRows k)) (hkept.trans hsda)
    rw [List.flatMap_cons, State.eventsOf_append, State.performRows_append, hevents, hbyte, hbit, hshift, hinputs, hsda, Bool.true_and,
      List.length_cons, Inputs.sdaSamples_succ]
    exact ⟨rfl, rfl⟩

theorem State.eventsOf_recvAckRows (s : State) :
    s.eventsOf recvAckRows = recvAckEvents s.ackReq ∧ (s.performRows recvAckRows).shift = s.shift := by
  simp [recvAckRows, recvAckEvents, State.eventOf, State.perform_shift]

/-- SDA is released before the first bit, so all eight are the environment's. -/
theorem State.eventsOf_recvTable (s : State) :
    s.eventsOf recvTable = recvEvents s.ackReq (s.inputs.sdaSamples 8)
      ∧ (s.performRows recvTable).shift = storeBits s.shift wireOrder (s.inputs.sdaSamples 8) := by
  obtain ⟨hbits, hbyte⟩ := (s.perform (.set .sda true)).eventsOf_recvBits wireOrder rfl
  obtain ⟨hack, hkept⟩ := ((s.perform (.set .sda true)).performRows (wireOrder.flatMap recvBitRows)).eventsOf_recvAckRows
  obtain ⟨-, -, -, -, hackReq, -⟩ := State.performRows_frame (wireOrder.flatMap recvBitRows) (s.perform (.set .sda true))
  rw [recvTable, State.eventsOf_cons, State.performRows_cons, State.eventsOf_append, State.performRows_append, hbits, hack, hkept,
    hbyte, hackReq]
  exact ⟨rfl, rfl⟩

theorem driversAfter_recvEvents (d : Drivers) (ack : Bool) (vs : List Bool) :
    driversAfter d (recvEvents ack vs) = { scl := false, sda := true } := by
  rw [recvEvents, ← List.cons_append, driversAfter_append]
  rfl

/-- Eight samples overwrite all of SHIFT. -/
theorem storeBits_wireOrder (b : Byte) (v0 v1 v2 v3 v4 v5 v6 v7 : Bool) :
    storeBits b wireOrder [v0, v1, v2, v3, v4, v5, v6, v7] = byteOfSamples v0 v1 v2 v3 v4 v5 v6 v7 := by
  apply BitVec.eq_of_getLsbD_eq
  intro j hj
  have stored (j : Fin 8) : (storeBits b wireOrder [v0, v1, v2, v3, v4, v5, v6, v7]).getLsbD j.val =
      (byteOfSamples v0 v1 v2 v3 v4 v5 v6 v7).getLsbD j.val := by
    simp only [wireOrder, storeBits, getLsbD_setBit]
    fin_cases j <;> simp [byteOfSamples, BitVec.ofBoolListBE, BitVec.getElem_cons]
  exact stored ⟨j, hj⟩

end Sys2Proof.Machine
end

section
/-! PROOFS. What lists of events make on the wire, piece by piece (R80, R131). -/

namespace Sys2Proof.Machine

/-! ### One list of events after another -/

theorem conditionsOf_append (env : Drive) (d : Drivers) (es fs : List Event) :
    conditionsOf env d (es ++ fs) = conditionsOf env d es ++ conditionsOf env (driversAfter d es) fs := by
  induction es generalizing d with
  | nil => rfl
  | cons e es ih => simp [conditionsOf, driversAfter, ih (d.after e)]

theorem sclRisesOf_append (env : Drive) (d : Drivers) (es fs : List Event) :
    sclRisesOf env d (es ++ fs) = sclRisesOf env d es + sclRisesOf env (driversAfter d es) fs := by
  induction es generalizing d with
  | nil => simp [sclRisesOf, driversAfter]
  | cons e es ih => simp [sclRisesOf, driversAfter, ih (d.after e), Nat.add_assoc]

theorem sdaSettings_append (es fs : List Event) : sdaSettings (es ++ fs) = sdaSettings es ++ sdaSettings fs := by
  induction es with
  | nil => rfl
  | cons e es ih =>
    cases e with
    | set l v => cases l <;> simp [sdaSettings, ih]
    | _ => simp [sdaSettings, ih]

theorem sdaAtSclReleases_append (d : Drivers) (es fs : List Event) :
    sdaAtSclReleases d (es ++ fs) = sdaAtSclReleases d es ++ sdaAtSclReleases (driversAfter d es) fs := by
  induction es generalizing d with
  | nil => rfl
  | cons e es ih => simp [sdaAtSclReleases, driversAfter, ih (d.after e)]

theorem sdaSetsWhileSclReleased_append (d : Drivers) (es fs : List Event) :
    sdaSetsWhileSclReleased d (es ++ fs) =
      sdaSetsWhileSclReleased d es + sdaSetsWhileSclReleased (driversAfter d es) fs := by
  induction es generalizing d with
  | nil => simp [sdaSetsWhileSclReleased, driversAfter]
  | cons e es ih => simp [sdaSetsWhileSclReleased, driversAfter, ih (d.after e), Nat.add_assoc]

/-! ### A line held low by a device shows no condition -/

theorem conditionBetween_of_scl_low {a b : Drivers} (ha : a.scl = false) : conditionBetween a b = none := by
  simp [conditionBetween, ha]

theorem conditionBetween_of_sda_eq {a b : Drivers} (hab : a.sda = b.sda) : conditionBetween a b = none := by
  simp [conditionBetween, hab]

theorem conditionsOf_of_scl_held {env : Drive} (henv : env.sclRel = false) (d : Drivers) (es : List Event) :
    conditionsOf env d es = [] := by
  induction es generalizing d with
  | nil => rfl
  | cons e es ih => simp [conditionsOf, ih, conditionBetween_of_scl_low, Drivers.levels, henv]

theorem conditionsOf_of_sda_held {env : Drive} (henv : env.sdaRel = false) (d : Drivers) (es : List Event) :
    conditionsOf env d es = [] := by
  induction es generalizing d with
  | nil => rfl
  | cons e es ih => simp [conditionsOf, ih, conditionBetween_of_sda_eq, Drivers.levels, henv]

/-! ### A whole command's entries: on the wire they are its line events -/

/-- What a command appends to TRACE (R36, R121): its acceptance, its line events and its completion. -/
def commandTrace (w : Cmd) (es : List Event) (st : Status) (x : Byte) : List Event :=
  Event.accept w :: (es ++ [Event.done st x])

section
variable (env : Drive) (d : Drivers) (w : Cmd) (es : List Event) (st : Status) (x : Byte)

theorem append_commandTrace (before : List Event) :
    before ++ commandTrace w es st x = before ++ [Event.accept w] ++ es ++ [Event.done st x] := by
  simp [commandTrace]

theorem conditionsOf_commandTrace : conditionsOf env d (commandTrace w es st x) = conditionsOf env d es := by
  simp [commandTrace, conditionsOf_append, conditionsOf, Drivers.after, conditionBetween_of_sda_eq]

theorem sclRisesOf_commandTrace : sclRisesOf env d (commandTrace w es st x) = sclRisesOf env d es := by
  simp [commandTrace, sclRisesOf_append, sclRisesOf, Drivers.after]

theorem sdaSettings_commandTrace : sdaSettings (commandTrace w es st x) = sdaSettings es := by
  simp [commandTrace, sdaSettings_append, sdaSettings]

theorem sclReleases_commandTrace : sclReleases (commandTrace w es st x) = sclReleases es := by
  simp [commandTrace, sclReleases]

theorem sdaAtSclReleases_commandTrace : sdaAtSclReleases d (commandTrace w es st x) = sdaAtSclReleases d es := by
  simp [commandTrace, sdaAtSclReleases_append, sdaAtSclReleases, Drivers.after]

theorem sdaSetsWhileSclReleased_commandTrace :
    sdaSetsWhileSclReleased d (commandTrace w es st x) = sdaSetsWhileSclReleased d es := by
  simp [commandTrace, sdaSetsWhileSclReleased_append, sdaSetsWhileSclReleased, Drivers.after]

theorem sample_mem_commandTrace_iff (v : Bool) : Event.sample v ∈ commandTrace w es st x ↔ Event.sample v ∈ es := by
  simp [commandTrace]

end

/-! ### START and STOP with no device on the lines (R124, R127) -/

theorem conditionsOf_startEvents {d : Drivers} (hd : ¬ (d.scl = true ∧ d.sda = false)) :
    conditionsOf noDevice d startEvents = [.start] := by
  have entries : ∀ scl sda, ¬ (scl = true ∧ sda = false) →
      conditionsOf noDevice { scl := scl, sda := sda } startEvents = [.start] := by
    decide
  exact entries d.scl d.sda hd

theorem conditionsOf_stopEvents_of_scl_low {d : Drivers} (hscl : d.scl = false) :
    conditionsOf noDevice d stopEvents = [.stop] := by
  have entries : ∀ sda, conditionsOf noDevice { scl := false, sda := sda } stopEvents = [.stop] := by decide
  obtain ⟨scl, sda⟩ := d
  obtain rfl : scl = false := hscl
  exact entries sda

/-! ### SEND (R131) -/

/-- Each bit's SET of SDA is followed by the one release of SCL that clocks it. -/
theorem sendBits_settings (d : Drivers) (b : Byte) (ks : List Nat) :
    sdaSettings (ks.flatMap (sendBitEvents b)) = ks.map (fun k => b.getLsbD k)
      ∧ sdaAtSclReleases d (ks.flatMap (sendBitEvents b)) = ks.map (fun k => b.getLsbD k)
      ∧ sclReleases (ks.flatMap (sendBitEvents b)) = ks.length := by
  induction ks generalizing d with
  | nil => exact ⟨rfl, rfl, rfl⟩
  | cons k ks ih =>
    obtain ⟨hsettings, hlevels, hreleases⟩ := ih (driversAfter d (sendBitEvents b k))
    rw [sclReleases] at hreleases
    rw [List.flatMap_cons, sdaSettings_append, sdaAtSclReleases_append, sclReleases, List.count_append, hsettings, hlevels, hreleases,
      List.length_cons, Nat.add_comm]
    exact ⟨rfl, rfl, rfl⟩

/-- Entered with SCL driven low, each bit sets SDA while SCL is low, makes one clock pulse and leaves SCL low. -/
theorem sendBits_pulses {d : Drivers} (hscl : d.scl = false) (b : Byte) (ks : List Nat) :
    (driversAfter d (ks.flatMap (sendBitEvents b))).scl = false
      ∧ sdaSetsWhileSclReleased d (ks.flatMap (sendBitEvents b)) = 0
      ∧ sclRisesOf noDevice d (ks.flatMap (sendBitEvents b)) = ks.length := by
  induction ks generalizing d with
  | nil => exact ⟨hscl, rfl, rfl⟩
  | cons k ks ih =>
    obtain ⟨hlow, hsets, hrises⟩ := ih (d := driversAfter d (sendBitEvents b k)) rfl
    rw [List.flatMap_cons, driversAfter_append, sdaSetsWhileSclReleased_append, sclRisesOf_append, hsets, hrises,
      List.length_cons, Nat.add_comm ks.length]
    refine ⟨hlow, ?_, ?_⟩
    · simp [sendBitEvents, sdaSetsWhileSclReleased, hscl]
    · simp [sendBitEvents, sclRisesOf, Drivers.after, Drivers.levels, noDevice, hscl]

theorem sendAck_pulses {d : Drivers} (hscl : d.scl = false) (v : Bool) :
    sdaSetsWhileSclReleased d (sendAckEvents v) = 0 ∧ sclRisesOf noDevice d (sendAckEvents v) = 1 := by
  simp [sendAckEvents, sdaSetsWhileSclReleased, sclRisesOf, Drivers.after, Drivers.levels, noDevice, hscl]

theorem sendEvents_settings (d : Drivers) (b : Byte) (v : Bool) :
    sdaSettings (sendEvents b v) = ([7, 6, 5, 4, 3, 2, 1, 0] : List Nat).map (fun k => b.getLsbD k) ++ [true]
      ∧ sdaAtSclReleases d (sendEvents b v) = ([7, 6, 5, 4, 3, 2, 1, 0] : List Nat).map (fun k => b.getLsbD k) ++ [true]
      ∧ sclReleases (sendEvents b v) = 9 := by
  obtain ⟨hsettings, hlevels, hreleases⟩ := sendBits_settings d b [7, 6, 5, 4, 3, 2, 1, 0]
  rw [sclReleases] at hreleases
  rw [sendEvents, sdaSettings_append, sdaAtSclReleases_append, sclReleases, List.count_append, hsettings, hlevels, hreleases]
  exact ⟨rfl, rfl, rfl⟩

theorem sendEvents_pulses {d : Drivers} (hscl : d.scl = false) (b : Byte) (v : Bool) :
    sdaSetsWhileSclReleased d (sendEvents b v) = 0 ∧ sclRisesOf noDevice d (sendEvents b v) = 9 := by
  obtain ⟨hlow, hsets, hrises⟩ := sendBits_pulses hscl b [7, 6, 5, 4, 3, 2, 1, 0]
  obtain ⟨hackSets, hackRises⟩ := sendAck_pulses hlow v
  rw [sendEvents, sdaSetsWhileSclReleased_append, sclRisesOf_append, hsets, hrises, hackSets, hackRises]
  exact ⟨rfl, rfl⟩

theorem sample_mem_sendEvents_iff (b : Byte) (v w : Bool) : .sample w ∈ sendEvents b v ↔ w = v := by
  simp [sendEvents, sendBitEvents, sendAckEvents]

end Sys2Proof.Machine
end

section
/-! PROOFS. The four commands from acceptance to completion (R121, R123, R138): what `exec_run` leaves, field by field. -/

namespace Sys2Proof.Machine

/-- The state in which command `i` has been accepted (R121). -/
def State.accepted (s : State) (i : Instr) : State :=
  s.accept i (tableOf (opOf i)) (loadOf i)

/-- The state in which all of command `i`'s micro-operations have been performed. -/
def State.performed (s : State) (i : Instr) : State :=
  (s.accepted i).performRows (tableOf (opOf i))

/-- The state in which command `i` has completed (R121). -/
def State.completed (s : State) (i : Instr) : State :=
  (s.performed i).complete (statusOf (opOf i) (s.performed i)) (dataOf (opOf i) (s.performed i))

/-- A command with `cmd_ready` is accepted, and it completes in the step of its last micro-operation. -/
theorem exec_run_completed {s : State} (i : Instr) (hlife : s.life = .configured) (hguard : s.guard = false) :
    exec i s = .next (s.accepted i) ∧ run (lengthOf (opOf i)) (s.accepted i) = .next (s.completed i) :=
  exec_run i hguard hlife

/-! ### The acceptance -/

variable (s : State) (i : Instr)

theorem State.accepted_shift :
    (s.accepted i).shift = match i with | .send b => b | _ => s.shift := by
  cases i <;> rfl

theorem State.accepted_ackReq :
    (s.accepted i).ackReq = match i with | .recv ack => ack | _ => s.ackReq := by
  cases i <;> rfl

@[simp] theorem State.accepted_inputs : (s.accepted i).inputs = s.inputs.afterAcceptance := by
  cases i <;> rfl

/-! ### On the way: `k` micro-operations after the acceptance (R138) -/

theorem State.run_accepted {k : Nat} (hk : k < lengthOf (opOf i)) :
    ∃ u, run k (s.accepted i) = .next u ∧ u.guard = true ∧ u.mpc.toNat = k ∧ u.fsm = fsmAt (tableOf (opOf i)) k
      ∧ u.ackReq = (s.accepted i).ackReq
      ∧ ((∀ r ∈ tableOf (opOf i), ∀ j, r.op ≠ .sampleBit j) → u.shift = (s.accepted i).shift) := by
  obtain ⟨hguard, -, hmpc, -⟩ := s.accept_fields i
  obtain ⟨-, -, hguard', -, hackReq, -⟩ := State.performRows_frame ((tableOf (opOf i)).take k) (s.accepted i)
  have := lengthOf_lt (opOf i)
  have mpc_eq : ((s.accepted i).performRows ((tableOf (opOf i)).take k)).mpc.toNat = k := by
    rw [State.performRows_mpc, State.accepted, hmpc, List.length_take_of_le (Nat.le_of_lt hk), BitVec.zero_add, BitVec.toNat_ofNat]
    exact Nat.mod_eq_of_lt (by omega)
  exact ⟨_, run_into_command i hk, hguard'.trans hguard, mpc_eq, rfl, hackReq, fun h =>
    State.performRows_shift_of_no_sampleBit (fun r hr => h r (List.mem_of_mem_take hr)) _⟩

/-! ### The completion -/

@[simp] theorem State.completed_guard : (s.completed i).guard = false := rfl
@[simp] theorem State.completed_fsm : (s.completed i).fsm = .idle := rfl
@[simp] theorem State.completed_rspValid : (s.completed i).rspValid = true := rfl
theorem State.completed_rspStatus : (s.completed i).rspStatus = statusOf (opOf i) (s.performed i) := rfl
theorem State.completed_shift : (s.completed i).shift = (s.performed i).shift := rfl
theorem State.completed_ackBit : (s.completed i).ackBit = (s.performed i).ackBit := rfl

theorem State.completed_shift_of_no_sampleBit (h : ∀ r ∈ tableOf (opOf i), ∀ k, r.op ≠ .sampleBit k) :
    (s.completed i).shift = (s.accepted i).shift :=
  State.performRows_shift_of_no_sampleBit h _

theorem State.completed_ackBit_of_no_sampleAck (h : ∀ r ∈ tableOf (opOf i), r.op ≠ .sampleAck) :
    (s.completed i).ackBit = s.ackBit := by
  obtain ⟨-, -, -, -, -, -, -, -, -, -, -, -, -, hackBit, -⟩ := s.accept_fields i
  exact (State.performRows_ackBit_of_no_sampleAck h _).trans hackBit

@[simp] theorem State.completed_op : (s.completed i).op = opOf i := by
  obtain ⟨-, hop, -⟩ := s.accept_fields i
  obtain ⟨-, -, -, hop', -⟩ := State.performRows_frame (tableOf (opOf i)) (s.accepted i)
  exact hop'.trans hop

@[simp] theorem State.completed_ackReq : (s.completed i).ackReq = (s.accepted i).ackReq := by
  obtain ⟨-, -, -, -, hackReq, -⟩ := State.performRows_frame (tableOf (opOf i)) (s.accepted i)
  exact hackReq

@[simp] theorem State.completed_port : (s.completed i).port = none := by
  obtain ⟨-, -, -, -, -, hport, -⟩ := s.accept_fields i
  obtain ⟨-, -, -, -, -, -, -, hport', -⟩ := State.performRows_frame (tableOf (opOf i)) (s.accepted i)
  exact hport'.trans hport

theorem State.samePins_completed : s.SamePins (s.completed i) := by
  obtain ⟨-, -, -, -, -, -, -, -, -, -, -, hlife, hcfg, -, hscl, hsda, -⟩ := s.accept_fields i
  obtain ⟨hlife', hcfg', -, -, -, hscl', hsda', -⟩ := State.performRows_frame (tableOf (opOf i)) (s.accepted i)
  exact ⟨hlife'.trans hlife, hcfg'.trans hcfg, hscl'.trans hscl, hsda'.trans hsda⟩

theorem State.sameHost_completed : s.SameHost (s.completed i) := by
  obtain ⟨-, -, -, -, -, -, -, -, -, -, -, -, -, -, -, -, howner, hcallers, hparams⟩ := s.accept_fields i
  obtain ⟨-, -, -, -, -, -, -, -, howner', hcallers', hparams'⟩ := State.performRows_frame (tableOf (opOf i)) (s.accepted i)
  obtain ⟨helapsed, halloc, hgrant, hstream⟩ := (s.accepted i).performRows_hostInputs (tableOf (opOf i))
  have callers_kept : (s.completed i).callers = s.callers := hcallers'.trans hcallers
  rw [State.accepted_inputs] at helapsed halloc hgrant hstream
  refine ⟨callers_kept, fun k j => ?_, howner'.trans howner, hparams'.trans hparams, helapsed, halloc, hgrant, hstream⟩
  rw [State.bufferByte, State.bufferByte, callers_kept]

/-- The line events of a command's micro-operations. -/
def State.commandEvents (s : State) (i : Instr) : List Event :=
  (s.accepted i).eventsOf (tableOf (opOf i))

theorem State.completed_trace :
    (s.completed i).trace =
      s.trace ++ commandTrace (encode i) (s.commandEvents i) (s.completed i).rspStatus (s.completed i).rspData := by
  obtain ⟨-, -, -, -, -, -, accepted_trace, -⟩ := s.accept_fields i
  have performed_trace : (s.performed i).trace = s.trace ++ [Event.accept (encode i)] ++ s.commandEvents i := by
    rw [State.performed, State.performRows_trace, State.accepted, accepted_trace]
    rfl
  rw [append_commandTrace, ← performed_trace]
  rfl

theorem State.commandEvents_start : s.commandEvents .start = startEvents :=
  (s.accepted .start).eventsOf_startTable

theorem State.commandEvents_stop : s.commandEvents .stop = stopEvents :=
  (s.accepted .stop).eventsOf_stopTable

theorem State.commandEvents_send (b : Byte) :
    s.commandEvents (.send b) = sendEvents b (s.inputs.afterAcceptance.driveAt 0).sdaRel
      ∧ (s.completed (.send b)).ackBit = (s.inputs.afterAcceptance.driveAt 0).sdaRel := by
  rw [State.completed_ackBit, State.performed, State.commandEvents, opOf, tableOf]
  have h := (s.accepted (.send b)).eventsOf_sendTable
  rwa [State.accepted_shift, State.accepted_inputs] at h

/-- SEND's status is the acknowledge its one sample found (R130). -/
theorem State.completed_rspStatus_send (b : Byte) :
    (s.completed (.send b)).rspStatus = if (s.inputs.afterAcceptance.driveAt 0).sdaRel then .busError else .ok := by
  obtain ⟨-, hackBit⟩ := s.commandEvents_send b
  rw [State.completed_ackBit] at hackBit
  rw [State.completed_rspStatus, opOf, statusOf, statusOfAckBit, hackBit]

theorem State.commandEvents_recv (ack : Bool) :
    s.commandEvents (.recv ack) = recvEvents ack (s.inputs.afterAcceptance.sdaSamples 8)
      ∧ (s.completed (.recv ack)).shift = storeBits s.shift wireOrder (s.inputs.afterAcceptance.sdaSamples 8) := by
  rw [State.completed_shift, State.performed, State.commandEvents, opOf, tableOf]
  have h := (s.accepted (.recv ack)).eventsOf_recvTable
  rwa [State.accepted_ackReq, State.accepted_shift, State.accepted_inputs] at h

theorem State.drivers_eq_iff {s : State} {scl sda : Bool} :
    s.drivers = { scl := scl, sda := sda } ↔ s.sclOut = scl ∧ s.sdaOut = sda :=
  Iff.of_eq (Drivers.mk.injEq ..)

/-- Each command leaves the lines as the last SETs of its table do, whatever the entry (R123). -/
theorem State.drivers_completed :
    (s.completed i).drivers =
      match i with
      | .start => { scl := false, sda := false }
      | .stop => { scl := true, sda := true }
      | .send _ => { scl := false, sda := true }
      | .recv _ => { scl := false, sda := true } := by
  have after_events : (s.completed i).drivers = driversAfter (s.accepted i).drivers (s.commandEvents i) :=
    (s.accepted i).drivers_performRows (tableOf (opOf i))
  rw [after_events]
  cases i with
  | start => rw [s.commandEvents_start, driversAfter_startEvents]
  | stop => rw [s.commandEvents_stop, driversAfter_stopEvents]
  | send b =>
    obtain ⟨hevents, -⟩ := s.commandEvents_send b
    rw [hevents, driversAfter_sendEvents]
  | recv ack =>
    obtain ⟨hevents, -⟩ := s.commandEvents_recv ack
    rw [hevents, driversAfter_recvEvents]

end Sys2Proof.Machine
end

section
/-! PROOFS. The statements about the bus primitives (41_bus_primitives.md). -/

namespace Sys2Proof.Machine

/-! ### Whole commands (R123, R124, R127, R130, R134) -/

/-- Settles O16: each clause is a field of the completed command; the conditions are those of its events, and none shows while SCL is
held low. -/
theorem startRunsToCompletion : Obligations.StartRunsToCompletion := by
  intro s hlife hguard
  obtain ⟨haccepted, hcompleted⟩ := exec_run_completed .start hlife hguard
  obtain ⟨hscl, hsda⟩ := State.drivers_eq_iff.mp (s.drivers_completed .start)
  refine ⟨s.accepted .start, s.completed .start, startEvents, haccepted, hcompleted, fun k hk => ?onTheWay, rfl,
    (s.completed_trace .start).trans (append_commandTrace ..), hscl, hsda, s.completed_rspValid .start, rfl, rfl,
    s.completed_guard .start, s.completed_fsm .start, s.completed_op .start,
    s.completed_shift_of_no_sampleBit .start (by decide), s.completed_ackReq .start,
    s.completed_ackBit_of_no_sampleAck .start (by decide), s.completed_port .start, s.samePins_completed .start,
    s.sameHost_completed .start, conditionsOf_startEvents (d := s.drivers),
    fun env henv => conditionsOf_of_scl_held henv s.drivers startEvents⟩
  case onTheWay =>
    obtain ⟨u, hrun, hheld, hmpc, hfsm, -⟩ := s.run_accepted .start hk
    exact ⟨u, hrun, hheld, hmpc, hfsm.trans (fsmAt_tableOf .start hk)⟩

/-- Settles O17: as for START; entered with both lines released, pulling SDA low is a START condition of its own. -/
theorem stopRunsToCompletion : Obligations.StopRunsToCompletion := by
  intro s hlife hguard
  obtain ⟨haccepted, hcompleted⟩ := exec_run_completed .stop hlife hguard
  obtain ⟨hscl, hsda⟩ := State.drivers_eq_iff.mp (s.drivers_completed .stop)
  refine ⟨s.accepted .stop, s.completed .stop, stopEvents, haccepted, hcompleted, fun k hk => ?onTheWay, rfl,
    (s.completed_trace .stop).trans (append_commandTrace ..), hscl, hsda, s.completed_rspValid .stop, rfl, rfl,
    s.completed_guard .stop, s.completed_fsm .stop, s.completed_op .stop,
    s.completed_shift_of_no_sampleBit .stop (by decide), s.completed_ackReq .stop,
    s.completed_ackBit_of_no_sampleAck .stop (by decide), s.completed_port .stop, s.samePins_completed .stop,
    s.sameHost_completed .stop, conditionsOf_stopEvents_of_scl_low (d := s.drivers), fun hscl hsda => ?bothReleased,
    fun env henv => conditionsOf_of_sda_held henv s.drivers stopEvents⟩
  case onTheWay =>
    obtain ⟨u, hrun, hheld, hmpc, hfsm, -⟩ := s.run_accepted .stop hk
    exact ⟨u, hrun, hheld, hmpc, hfsm.trans (fsmAt_tableOf .stop hk)⟩
  case bothReleased =>
    rw [State.drivers_eq_iff.mpr ⟨hscl, hsda⟩]
    decide

/-- Settles O18: no row of SEND writes SHIFT, so every bit is the byte's, and SDA is released at the one sample. -/
theorem sendRunsToCompletion : Obligations.SendRunsToCompletion := by
  intro s b hlife hguard
  obtain ⟨haccepted, hcompleted⟩ := exec_run_completed (.send b) hlife hguard
  obtain ⟨hscl, hsda⟩ := State.drivers_eq_iff.mp (s.drivers_completed (.send b))
  obtain ⟨hevents, hackBit⟩ := s.commandEvents_send b
  refine ⟨s.accepted (.send b), s.completed (.send b), _, haccepted, hcompleted, fun k hk => ?onTheWay, rfl, ?trace, hackBit,
    s.completed_rspStatus_send b, rfl, s.completed_rspValid _, s.completed_shift_of_no_sampleBit (.send b) sendTable_no_sampleBit,
    s.completed_ackReq (.send b), hscl, hsda, s.completed_guard _, s.completed_fsm _, s.completed_op (.send b), s.completed_port (.send b),
    s.samePins_completed (.send b), s.sameHost_completed (.send b)⟩
  case onTheWay =>
    obtain ⟨u, hrun, hheld, hmpc, hfsm, -, hshift⟩ := s.run_accepted (.send b) hk
    exact ⟨u, hrun, hheld, hmpc, hshift sendTable_no_sampleBit, hfsm.trans (fsmAt_tableOf .send hk)⟩
  case trace =>
    rw [s.completed_trace (.send b), append_commandTrace, hevents, s.completed_rspStatus_send b, sendEvents,
      ← List.append_assoc (s.trace ++ _)]
    rfl

/-- Settles O19: SDA is released at the eight samples, which overwrite all of SHIFT. -/
theorem recvRunsToCompletion : Obligations.RecvRunsToCompletion := by
  intro s ack hlife hguard
  obtain ⟨haccepted, hcompleted⟩ := exec_run_completed (.recv ack) hlife hguard
  obtain ⟨hscl, hsda⟩ := State.drivers_eq_iff.mp (s.drivers_completed (.recv ack))
  obtain ⟨hevents, hshift⟩ := s.commandEvents_recv ack
  refine ⟨s.accepted (.recv ack), s.completed (.recv ack), _, _, _, _, _, _, _, _, haccepted, hcompleted, fun k hk => ?onTheWay, rfl,
    ?trace, hshift.trans (storeBits_wireOrder ..), rfl, rfl, s.completed_rspValid _, s.completed_ackReq (.recv ack),
    s.completed_ackBit_of_no_sampleAck (.recv ack) recvTable_no_sampleAck, hscl, hsda, s.completed_guard _, s.completed_fsm _,
    s.completed_op (.recv ack), s.completed_port (.recv ack), s.samePins_completed (.recv ack), s.sameHost_completed (.recv ack)⟩
  case onTheWay =>
    obtain ⟨u, hrun, hheld, hmpc, hfsm, hackReq, -⟩ := s.run_accepted (.recv ack) hk
    exact ⟨u, hrun, hheld, hmpc, hackReq, hfsm.trans (fsmAt_tableOf .recv hk)⟩
  case trace =>
    rw [s.completed_trace (.recv ack), append_commandTrace, hevents]
    simp only [recvEvents, List.append_assoc, List.cons_append, List.nil_append]
    rfl

/-- Settles O20: the exit lines of all four are said once, in `State.drivers_completed`. -/
theorem lineStateLeftByCommands : Obligations.LineStateLeftByCommands := by
  intro i s hlife hguard
  obtain ⟨haccepted, hcompleted⟩ := exec_run_completed i hlife hguard
  refine ⟨s.accepted i, s.completed i, haccepted, hcompleted, ?_⟩
  have exit_lines := s.drivers_completed i
  cases i <;> exact Prod.ext_iff.mpr (State.drivers_eq_iff.mp exit_lines)

/-- Settles O23: STOP is entered with the lines START leaves, 0/0, so it adds a STOP condition alone. -/
theorem startThenStopReleasesLines : Obligations.StartThenStopReleasesLines := by
  intro s hlife hguard
  obtain ⟨hstart, hstarted⟩ := exec_run_completed .start hlife hguard
  obtain ⟨hlife', -⟩ := s.samePins_completed .start
  obtain ⟨hstop, hstopped⟩ := exec_run_completed (s := s.completed .start) .stop (hlife'.trans hlife) (s.completed_guard .start)
  obtain ⟨hscl, hsda⟩ := State.drivers_eq_iff.mp ((s.completed .start).drivers_completed .stop)
  refine ⟨s.accepted .start, s.completed .start, (s.completed .start).accepted .stop, (s.completed .start).completed .stop,
    commandTrace 0x0000#16 startEvents .ok 0x00#8 ++ commandTrace 0x0001#16 stopEvents .ok 0x00#8, hstart, hstarted, hstop, hstopped,
    hscl, hsda, ?trace, fun hentry => ?conditions⟩
  case trace =>
    rw [(s.completed .start).completed_trace .stop, s.completed_trace .start, List.append_assoc]
    rfl
  case conditions =>
    rw [conditionsOf_append, conditionsOf_commandTrace, conditionsOf_commandTrace, conditionsOf_startEvents hentry,
      conditionsOf_stopEvents_of_scl_low rfl]
    rfl

/-- Settles O24: the events of SEND are its eight bits' and its acknowledge's, and neither the acceptance nor the completion is a
setting or a pulse. -/
theorem sendBitSequence : Obligations.SendBitSequence := by
  intro s b hlife hguard
  obtain ⟨haccepted, hcompleted⟩ := exec_run_completed (.send b) hlife hguard
  obtain ⟨hevents, -⟩ := s.commandEvents_send b
  obtain ⟨hsettings, hlevels, hreleases⟩ := sendEvents_settings s.drivers b (s.inputs.afterAcceptance.driveAt 0).sdaRel
  refine ⟨s.accepted (.send b), s.completed (.send b), _, haccepted, hcompleted, s.completed_trace (.send b), ?settings, ?releases,
    ?levels, ?status, fun hscl => ?pulses⟩
  case settings => rw [sdaSettings_commandTrace, hevents, hsettings]
  case releases => rw [sclReleases_commandTrace, hevents, hreleases]
  case levels => rw [sdaAtSclReleases_commandTrace, hevents, hlevels]
  case status =>
    rw [sample_mem_commandTrace_iff, hevents, sample_mem_sendEvents_iff, s.completed_rspStatus_send b]
    cases (s.inputs.afterAcceptance.driveAt 0).sdaRel <;> simp
  case pulses =>
    rw [sdaSetsWhileSclReleased_commandTrace, sclRisesOf_commandTrace, hevents]
    exact sendEvents_pulses hscl b _

/-! ### FSM_STATE (R137) and the acknowledge (R132) -/

/-- The next FSM_STATE of a running command: the next row's phase, or IDLE after the last one. -/
theorem afterMicro_fsm {s : State} {row : MicroRow} (hrow : (tableOf s.op)[s.mpc.toNat]? = some row) :
    ((s.perform row.op).afterMicro (tableOf s.op) (statusOf s.op) (dataOf s.op)).fsm =
      if s.mpc.toNat + 1 = lengthOf s.op then .idle else phaseAt s.op (s.mpc.toNat + 1) := by
  obtain ⟨hmpc, hlt⟩ := mpc_succ hrow
  have next_mpc : (s.perform row.op).mpc.toNat = s.mpc.toNat + 1 := by rw [State.perform_mpc, hmpc]
  rcases (s.perform row.op).afterMicro_cases (tableOf s.op) (statusOf s.op) (dataOf s.op) with ⟨hlast, h⟩ | ⟨hnext, h⟩
  · have hend : s.mpc.toNat + 1 = lengthOf s.op := next_mpc ▸ hlast
    rw [h, if_pos hend]
    rfl
  · have hne : s.mpc.toNat + 1 ≠ lengthOf s.op := next_mpc ▸ hnext
    rw [h, if_neg hne, State.putFsm_fsm, next_mpc, fsmAt_tableOf s.op (by omega)]

theorem accept_fsm (s : State) (i : Instr) :
    (s.accept i (tableOf (opOf i)) (loadOf i)).fsm =
      match i with
      | .start => .startAsserted
      | .stop => .stopAsserted
      | .send _ => .bitTransfer
      | .recv _ => .bitTransfer := by
  cases i <;> rfl

/-- No host operation starts the engine: INIT writes IDLE, every other one leaves FSM_STATE alone. -/
theorem hostStep_fsm_of_idle {s t : State} (hidle : s.fsm = .idle) (h : hostStep s = .next t) : t.fsm = .idle := by
  rcases hostStep_engine h with ⟨-, -, -, hfsm, -⟩ | ⟨scl, sda, rate, -, -, -, -, -, -, -, hfsm, -⟩ | ⟨-, -, -, -, hfsm, -⟩
  · rw [hfsm, hidle]
  · rw [hfsm, State.initialise]
  · rw [hfsm, ← hidle]
    simp [State.releaseLine]

/-- Settles O22: by what the step is (`step_cases`): an acceptance, an illegal word's answer, a host step or a micro-operation. -/
theorem fsmStateTransitions : Obligations.FsmStateTransitions := by
  rintro s t ⟨-, idle_of_free⟩ hstep
  refine ⟨fun hguard w hport hlife => ?presented, fun hguard hnone => ?nothing, fun hguard => ?running⟩
  case presented =>
    rcases step_cases hstep with ⟨hheld, -⟩ | ⟨-, -, w', i, hport', hdec, rfl⟩ | ⟨-, -, w', e, hport', hdec, rfl⟩ | ⟨-, hnone, -⟩
    · simp [hguard] at hheld
    · obtain rfl : w = w' := Option.some.inj (hport.symm.trans hport')
      rw [hdec, accept_fsm]
      cases i <;> rfl
    · obtain rfl : w = w' := Option.some.inj (hport.symm.trans hport')
      rw [hdec]
      exact idle_of_free hguard
    · simp [hlife, hport] at hnone
  case nothing =>
    rcases step_cases hstep with ⟨hheld, -⟩ | ⟨-, hlife, w, i, hport, -⟩ | ⟨-, hlife, w, e, hport, -⟩ | ⟨-, -, hhost⟩
    · simp [hguard] at hheld
    · simp [hlife, hport] at hnone
    · simp [hlife, hport] at hnone
    · exact hostStep_fsm_of_idle (idle_of_free hguard) hhost
  case running =>
    rcases step_cases hstep with ⟨-, row, hrow, rfl⟩ | ⟨hfree, -⟩ | ⟨hfree, -⟩ | ⟨hfree, -⟩
    · rw [afterMicro_fsm hrow]
      cases s.op <;> simp only [phaseAt, ← Nat.not_le, ite_not] <;> rfl
    all_goals simp [hguard] at hfree

/-- Settles O25: SEND's last micro-operation is a DELAY, which leaves ACKBIT to the completion that reads it. -/
theorem ackDetection : Obligations.AckDetection := by
  intro s hguard hop hmpc
  have last_row : (tableOf s.op)[s.mpc.toNat]? = some { op := .delay, fsm := .ackPhase } := by
    rw [hop, hmpc]
    rfl
  have hexec : exec s.inFlight s = step s := by simp [step, State.pick, hguard]
  have completes : (s.perform .delay).mpc.toNat = (tableOf s.op).length := by
    rw [State.perform_mpc, hmpc, hop]
    rfl
  have status_eq : ((s.perform .delay).afterMicro (tableOf s.op) (statusOf s.op) (dataOf s.op)).rspStatus =
      if s.ackBit = false then .ok else .busError := by
    rw [State.afterMicro, if_pos completes, hop]
    cases hack : s.ackBit <;> simp [State.complete, statusOf, statusOfAckBit, State.perform_ackBit, hack]
  refine ⟨_, hexec.trans (step_of_row hguard last_row), status_eq, ?_⟩
  rw [status_eq]
  exact ite_eq_or_eq ..

end Sys2Proof.Machine
end

section
/-! PROOFS. TRANSFER: its validation, the address phase and the deadline (45_transfer_sequencer.md). -/

namespace Sys2Proof.Machine

/-! ### The address byte (R78, R166) -/

theorem rwBit_eq_ite (d : Direction) : rwBit d = if d = .read then 1#8 else 0#8 := by
  cases d <;> rfl

theorem addressByte_eq (a7 : BitVec 7) (d : Direction) :
    addressByte a7 d = (a7.setWidth 8 <<< 1) ||| (if d = .read then 1#8 else 0#8) := by
  rw [addressByte, rwBit_eq_ite]

/-- Bits 7 to 1 are the address: RW is in bit 0 alone, and the shift drops no bit of a 7-bit address. -/
theorem addressByte_addr7 (a7 : BitVec 7) (d : Direction) : (addressByte a7 d).extractLsb' 1 7 = a7 := by
  have rw_high_bits : (rwBit d).extractLsb' 1 7 = 0#7 := by
    cases d <;> rfl
  have addr_shifted : (a7.setWidth 8 <<< 1).extractLsb' 1 7 = a7 := by
    ext i hi
    simp [hi, show 1 + i < 8 by omega]
  rw [addressByte, BitVec.extractLsb'_or, addr_shifted, rw_high_bits, BitVec.or_zero]

theorem addressByte_rw (a7 : BitVec 7) (d : Direction) : (addressByte a7 d).getLsbD 0 = true ↔ d = .read := by
  cases d <;> simp [addressByte, rwBit]

/-- Settles O8: the two fields of the byte, RW's one bit and the shifted address, do not overlap. -/
theorem addressByteFormat : Obligations.AddressByteFormat :=
  ⟨fun a7 d => ⟨addressByte_eq a7 d, addressByte_addr7 a7 d, addressByte_rw a7 d⟩, rfl, rfl, rfl, rfl⟩

/-! ### Validation (R162, R163) -/

theorem validate_invalid {bus : Bool} {dev : Option Device} {req : Option Request} (p : Params)
    (h : bus = false ∨ dev = none ∨ req = none ∨ ∃ r, req = some r ∧ r.len = 0) : validate p bus dev req = .invalid := by
  rcases h with rfl | rfl | rfl | ⟨r, rfl, hlen⟩
  · rfl
  · cases bus <;> rfl
  · cases bus <;> cases dev <;> rfl
  · cases bus <;> cases dev <;> simp [validate, hlen]

theorem validate_of_dir_ne {d : Device} {r : Request} (p : Params) (hlen : r.len ≠ 0) (hdir : d.dir ≠ r.dir) :
    validate p true (some d) (some r) = .refused .directionMismatch := by
  simp [validate, hlen, hdir]

theorem validate_of_dir_eq {p : Params} {d : Device} {r : Request} (hlen : r.len ≠ 0) (hdir : d.dir = r.dir)
    (hmax : r.len ≤ p.maxLen) : validate p true (some d) (some r) = .valid d r := by
  simp [validate, hlen, hdir, Nat.not_lt.mpr hmax]

theorem State.callerStep_of_transfer {s : State} {k : Nat} {c : Caller} {bus : Bool} {dev : Option Device} {req : Option Request}
    {rest : List HostOp} (hc : s.callers[k]? = some c) (hcall : c.call = none) (hnext : c.pending = .transfer bus dev req :: rest) :
    s.callerStep k = s.beginTransfer k c bus dev req := by
  simp only [State.callerStep, hc, hcall, hnext]

theorem Caller.finish_of_pending {c : Caller} {o : HostOp} {rest : List HostOp} (h : c.pending = o :: rest) :
    c.finish = { c with todo := rest } := by
  simp [Caller.finish, h]

/-- Settles O47: a caller's step is what `validate` decides, and it checks the absent inputs and the length before the directions. -/
theorem transferValidation : Obligations.TransferValidation := by
  intro s k c bus dev req rest hc hcall hnext
  rw [State.callerStep_of_transfer hc hcall hnext, State.beginTransfer, Caller.finish_of_pending hnext]
  refine ⟨fun hbad => ?invalid, ?mismatch, ?valid⟩
  case invalid =>
    rw [validate_invalid s.params hbad]
    rfl
  case mismatch =>
    rintro d r rfl rfl rfl hlen hdir
    rw [validate_of_dir_ne s.params hlen hdir]
  case valid =>
    rintro d r rfl rfl rfl hlen hdir hmax
    rw [validate_of_dir_eq hlen hdir hmax]
    exact ⟨Call.begin d r, rfl, rfl, rfl, rfl, rfl, rfl, rfl, rfl⟩

/-! ### The end of an attempt (R171, R172, R173) -/

theorem Call.attemptFailed_of_lt {c : Call} (failure : Status) (h : c.attempt < Config.retryBudget) :
    c.attemptFailed failure = .goes { c with last := failure, point := .backoff } :=
  if_pos h

theorem Call.attemptFailed_of_le {c : Call} (failure : Status) (h : Config.retryBudget ≤ c.attempt) :
    c.attemptFailed failure = .returns failure c.buf :=
  if_neg (Nat.not_lt.mpr h)

/-! ### The address phase (R167) -/

theorem Call.command_issueAddr {c : Call} (h : c.point = .issueAddr) : c.command = .send (addressByte c.addr7 c.dir) := by
  simp only [Call.command, h]

theorem Call.onResponse_issueAddr {c : Call} (h : c.point = .issueAddr) (st : Status) (d : Byte) :
    c.onResponse st d =
      .goes (if st = .busError then { c with point := .issueStop .addrNack } else { c with st := .ok, idx := 0, point := .check }) := by
  simp only [Call.onResponse, h]
  split <;> rfl

theorem Call.onResponse_addrNack {c : Call} (h : c.point = .issueStop .addrNack) (st : Status) (d : Byte) :
    c.onResponse st d = c.attemptFailed .busError := by
  simp only [Call.onResponse, h]

/-- Settles O48: what follows the STOP of a NACKed address is that of any failed attempt, with BUS_ERROR. -/
theorem transferAddressPhase : Obligations.TransferAddressPhase := by
  intro c d haddr
  refine ⟨?sends, Call.onResponse_issueAddr haddr .busError d, Call.onResponse_issueAddr haddr .ok d, rfl,
    fun st hleft => (Call.onResponse_addrNack rfl st d).trans (Call.attemptFailed_of_lt .busError hleft), rfl,
    fun st hlast => ⟨c.buf, (Call.onResponse_addrNack rfl st d).trans (Call.attemptFailed_of_le .busError hlast)⟩⟩
  case sends => rw [Call.command_issueAddr haddr, addressByte_eq]

/-! ### The readings of NOW() (R164, R170, R171) -/

/-- A caller at the opening of an attempt or at the check before a payload byte takes one reading of NOW(). -/
theorem State.callerStep_of_reading {s : State} {k : Nat} {c : Caller} {t : Call} (hc : s.callers[k]? = some c) (hcall : c.call = some t)
    (hpoint : t.point = .readT0 ∨ t.point = .check) :
    s.callerStep k = .next (s.drawElapsed.setCaller k
      { (c.note [.now (s.nextNow c)]) with clock := s.nextNow c, call := some (t.onNow (s.nextNow c)) }) := by
  rcases hpoint with h | h <;> simp only [State.callerStep, hc, hcall, State.transferStep, h]

theorem State.setCaller_getElem?_self {s : State} {k : Nat} {c : Caller} (hc : s.callers[k]? = some c) (c' : Caller) :
    (s.setCaller k c').callers[k]? = some c' := by
  simp [(List.getElem?_eq_some_iff.mp hc).1]

theorem Call.onNow_readT0 {t : Call} (h : t.point = .readT0) (now : Nat) : t.onNow now = { t with t0 := now, point := .issueStart } := by
  simp only [Call.onNow, h]

theorem Call.onNow_check {t : Call} (h : t.point = .check) (now : Nat) :
    t.onNow now = { t with point := if now - t.t0 > Config.deadlineUs then .issueStop .deadline else .issuePayload } := by
  simp only [Call.onNow, h, Call.pastDeadline, decide_eq_true_eq]
  split <;> rfl

/-- Settles O50: the step is one reading of NOW(), which the two points use in their own ways. -/
theorem transferDeadline : Obligations.TransferDeadline := by
  intro s k c t hpoint hc hcall
  refine ⟨_, _, _, State.callerStep_of_reading hc hcall hpoint, State.setCaller_getElem?_self (s := s.drawElapsed) hc _, rfl, rfl, rfl,
    State.setCaller_sameEngine s.drawElapsed k _, fun hopen => ?opening, fun hcheck hpast => ?past, fun hcheck hwithin => ?within⟩
  case opening =>
    rw [Call.onNow_readT0 hopen]
    exact ⟨rfl, rfl, fun _ _ => rfl⟩
  case past =>
    rw [Call.onNow_check hcheck, if_pos hpast]
    exact ⟨rfl, rfl, fun _ _ => ⟨t.buf, rfl⟩⟩
  case within => rw [Call.onNow_check hcheck, if_neg hwithin]

end Sys2Proof.Machine
end

section
/-! PROOFS. The statuses and their codes: the illegal word, which operation returns which status (60_exceptions.md). -/

namespace Sys2Proof.Machine

/-! ### The illegal word (R202) -/

/-- Each row of the opcode map is one command's, so a word that decodes selects a row. -/
theorem exists_selects_of_decode_ok {w : Cmd} {i : Instr} (h : decode w = .ok i) : ∃ r ∈ opcodeMap, r.selects w = true := by
  obtain ⟨start_iff, stop_iff, send_iff, recv_iff, -⟩ := opcodeMapSelects w
  cases i with
  | start => exact ⟨opcodeMap[0], List.getElem_mem _, beq_iff_eq.mpr (start_iff.mp h)⟩
  | stop => exact ⟨opcodeMap[1], List.getElem_mem _, beq_iff_eq.mpr (stop_iff.mp h)⟩
  | send b => exact ⟨opcodeMap[2], List.getElem_mem _, beq_iff_eq.mpr ((send_iff b).mp h).1⟩
  | recv a => exact ⟨opcodeMap[3], List.getElem_mem _, beq_iff_eq.mpr ((recv_iff a).mp h).1⟩

theorem decode_error_of_no_row {w : Cmd} (hrows : ∀ r ∈ opcodeMap, r.selects w = false) : ∃ e, decode w = .error e := by
  cases hdec : decode w with
  | error e => exact ⟨e, rfl⟩
  | ok i =>
    obtain ⟨r, hr, hselects⟩ := exists_selects_of_decode_ok hdec
    simp [hrows r hr] at hselects

/-- A ready engine answers an illegal word in the step that takes it. -/
theorem step_of_illegal {s : State} {w : Cmd} {e : Illegal} (hlife : s.life = .configured) (hguard : s.guard = false)
    (hport : s.port = some w) (hdec : decode w = .error e) : step s = .next (s.acceptIllegal w) := by
  have hpick : s.pick = .illegal w := by simp [State.pick, hguard, hlife, hport, hdec]
  rw [step, hpick]

theorem State.acceptIllegal_trace (s : State) (w : Cmd) :
    (s.acceptIllegal w).trace = s.trace ++ ([.accept w, .done .illegalCommand 0x00#8] : List Event) := by
  simp [State.acceptIllegal]

theorem State.samePins_acceptIllegal (s : State) (w : Cmd) : s.SamePins (s.acceptIllegal w) :=
  ⟨rfl, rfl, rfl, rfl⟩

theorem State.sameHost_acceptIllegal (s : State) (w : Cmd) : s.SameHost (s.acceptIllegal w) :=
  ⟨rfl, fun _ _ => rfl, rfl, rfl, rfl, rfl, rfl, rfl⟩

/-- Settles O11: a word without a row does not decode, and the step that takes it writes the response, TRACE and the port only. -/
theorem illegalWordAnsweredAtOnce : Obligations.IllegalWordAnsweredAtOnce := by
  intro s w hlife hguard hport hrows
  obtain ⟨e, hdec⟩ := decode_error_of_no_row hrows
  exact ⟨s.acceptIllegal w, step_of_illegal hlife hguard hport hdec, rfl, rfl, rfl, s.acceptIllegal_trace w, rfl, hguard, rfl, rfl, rfl,
    rfl, rfl, rfl, rfl, rfl, rfl, rfl, s.samePins_acceptIllegal w, s.sameHost_acceptIllegal w⟩

/-! ### Which operation returns which status (R201) -/

theorem statusOf_send (s : State) : statusOf .send s = .ok ∨ statusOf .send s = .busError := by
  cases h : s.ackBit <;> simp [statusOf, statusOfAckBit, h]

theorem statusOf_of_ne_send {o : Op} (ho : o ≠ .send) (s : State) : statusOf o s = .ok := by
  cases o with
  | send => exact absurd rfl ho
  | start | stop | recv => rfl

/-- The step that frees the guard is a completion: RSP_STATUS is what OP reports of the state after the last micro-operation. -/
theorem rspStatus_of_completion {s t : State} (hguard : s.guard = true) (hstep : step s = .next t) (hfreed : t.guard = false) :
    ∃ u, t.rspStatus = statusOf s.op u := by
  rcases step_cases hstep with ⟨-, row, -, rfl⟩ | ⟨hfree, -⟩ | ⟨hfree, -⟩ | ⟨hfree, -⟩
  · rcases (s.perform row.op).afterMicro_cases (tableOf s.op) (statusOf s.op) (dataOf s.op) with ⟨-, hlast⟩ | ⟨-, hnext⟩
    · exact ⟨s.perform row.op, by rw [hlast]; rfl⟩
    · simp [hnext, hguard] at hfreed
  all_goals simp [hguard] at hfree

theorem Call.attemptFailed_returns {c : Call} {failure r : Status} {buf : Memory} (h : c.attemptFailed failure = .returns r buf) :
    r = failure := by
  rcases Nat.lt_or_ge c.attempt Config.retryBudget with hleft | hlast
  · simp [Call.attemptFailed_of_lt failure hleft] at h
  · rw [Call.attemptFailed_of_le failure hlast] at h
    exact (CallNext.returns.inj h).1.symm

theorem Call.onResponse_payloadDone {c : Call} (h : c.point = .issueStop .payloadDone) (st : Status) (d : Byte) :
    c.onResponse st d = if c.st = .ok then .returns .ok c.buf else c.attemptFailed c.st := by
  simp only [Call.onResponse, h]

theorem Call.onResponse_deadline {c : Call} (h : c.point = .issueStop .deadline) (st : Status) (d : Byte) :
    c.onResponse st d = .returns .timeout c.buf := by
  simp only [Call.onResponse, h]

/-- No response but a STOP's ends a call. -/
theorem Call.onResponse_goes {c : Call} (h : ∀ why, c.point ≠ .issueStop why) (st : Status) (d : Byte) :
    ∃ c', c.onResponse st d = .goes c' := by
  cases hpoint : c.point with
  | issueStop why => exact absurd hpoint (h why)
  | issuePayload => cases hdir : c.dir <;> by_cases hst : st = .busError <;> simp [Call.onResponse, hpoint, hdir, hst]
  | issueAddr => exact ⟨_, Call.onResponse_issueAddr hpoint st d⟩
  | readT0 | issueStart | check | backoff => simp [Call.onResponse, hpoint]

/-- A TRANSFER returns after a STOP only, with the status its attempt ended in. -/
theorem Call.onResponse_returns {c : Call} {st r : Status} {d : Byte} {buf : Memory} (h : c.onResponse st d = .returns r buf) :
    ∃ why, c.point = .issueStop why ∧
      r = match why with
        | .addrNack => .busError
        | .payloadDone => c.st
        | .deadline => .timeout := by
  by_cases hstop : ∃ why, c.point = .issueStop why
  · obtain ⟨why, hpoint⟩ := hstop
    refine ⟨why, hpoint, ?_⟩
    cases why with
    | addrNack =>
      rw [Call.onResponse_addrNack hpoint] at h
      exact Call.attemptFailed_returns h
    | payloadDone =>
      rw [Call.onResponse_payloadDone hpoint] at h
      split at h
      case isTrue hok => exact (CallNext.returns.inj h).1.symm.trans hok.symm
      case isFalse => exact Call.attemptFailed_returns h
    | deadline =>
      rw [Call.onResponse_deadline hpoint] at h
      exact (CallNext.returns.inj h).1.symm
  · obtain ⟨c', hgoes⟩ := Call.onResponse_goes (not_exists.mp hstop) st d
    simp [hgoes] at h

theorem Call.st_of_wf {p : Params} {c : Call} (hwf : Call.wf p c = true) : c.st = .ok ∨ c.st = .busError := by
  simp only [Call.wf, Bool.and_eq_true, decide_eq_true_eq] at hwf
  obtain ⟨⟨⟨⟨⟨⟨-, hst⟩, -⟩, -⟩, -⟩, -⟩, -⟩ := hwf
  exact hst

/-- A call that does not begin leaves its caller in no call, with the return in its history. -/
theorem State.beginTransfer_not_begun {s t : State} {k : Nat} {c c' : Caller} {bus : Bool} {dev : Option Device} {req : Option Request}
    (hc : s.callers[k]? = some c) (h : s.beginTransfer k c bus dev req = .next t) (hc' : t.callers[k]? = some c')
    (hcall : c'.call = none) : c'.history = c.history ++ [.transferReturned .invalidArgument (bufferOf req)] := by
  rcases State.beginTransfer_cases h with ⟨d, r, -, rfl⟩ | ⟨-, rfl⟩
  all_goals
    rw [State.setCaller_getElem?_self hc, Option.some.injEq] at hc'
    subst hc'
  · simp at hcall
  · rfl

/-- Settles O43: operation by operation, by what each can do when it answers. -/
theorem statusesPerOperation : Obligations.StatusesPerOperation := by
  refine ⟨fun s t hguard hstep hfreed => ?command, fun _ _ => rfl, fun s t a st hinit => ?init,
    fun s t st hteardown => (State.teardown_cases hteardown).2.1, fun p c st r d buf hwf hret => ?transfer,
    fun s t k c bus dev req hc hbegin c' hc' hcall => State.beginTransfer_not_begun hc hbegin hc' hcall⟩
  case command =>
    obtain ⟨u, hstatus⟩ := rspStatus_of_completion hguard hstep hfreed
    rw [hstatus]
    exact ⟨fun hsend => hsend ▸ statusOf_send u, fun hother => statusOf_of_ne_send hother u⟩
  case init =>
    obtain ⟨-, ⟨-, rfl⟩ | ⟨-, rfl⟩ | ⟨scl, sda, rate, -, -, -, -, -, -, rfl⟩⟩ := State.init_cases hinit
    · exact .inr (.inl rfl)
    · exact .inr (.inr rfl)
    · exact .inl rfl
  case transfer =>
    obtain ⟨why, -, rfl⟩ := Call.onResponse_returns hret
    cases why with
    | addrNack => exact .inr (.inl rfl)
    | payloadDone => exact (Call.st_of_wf hwf).imp_right .inl
    | deadline => exact .inr (.inr rfl)

/-! ### The numbers (R200) -/

/-- The seven statuses leave the code 7 unused. -/
theorem codeOfStatus_ne_seven (st : Status) : codeOfStatus st ≠ 7#3 := by
  cases st <;> decide

/-- Settles O42: each row of the tables of R200, R22, R27 and R28 is a case of its definition. -/
theorem codesOfRegisters : Obligations.CodesOfRegisters :=
  ⟨rfl, codeOfStatus_ne_seven, rfl, fun _ => ⟨rfl, rfl⟩, rfl, rfl, rfl⟩

end Sys2Proof.Machine
end

section
/-! PROOFS. Power-on reset, the elements without a specified value, and INIT (70_reset_and_hazards.md). -/

namespace Sys2Proof.Machine

variable {s s' t : State}

/-! ### Every step keeps the engine's registers in agreement (R24, R27, R29, R34) -/

theorem State.engineInv_of_free (hguard : s.guard = false) (hfsm : s.fsm = .idle) : s.EngineInv :=
  ⟨fun hheld => by simp [hguard] at hheld, fun _ => hfsm⟩

theorem State.engineInv_accepted (s : State) (i : Instr) (hlife : s.life = .configured) : (s.accepted i).EngineInv := by
  obtain ⟨hguard, hop, hmpc, hfsm, hrsp, -, -, -, -, -, -, hlife', -⟩ := s.accept_fields i
  have table_nonempty : ∀ o, 0 < lengthOf o := by rintro (_ | _ | _ | _) <;> decide
  rw [← State.accepted] at hguard hop hmpc hfsm hrsp hlife'
  refine ⟨fun _ => ⟨hlife'.trans hlife, hrsp, ?_, ?_⟩, fun hfree => by simp [hguard] at hfree⟩
  · rw [hmpc, hop]
    exact table_nonempty (opOf i)
  · rw [hfsm, hmpc, hop]
    rfl

theorem State.engineInv_afterMicro {row : MicroRow} (hinv : s.EngineInv) (hguard : s.guard = true)
    (hrow : (tableOf s.op)[s.mpc.toNat]? = some row) :
    ((s.perform row.op).afterMicro (tableOf s.op) (statusOf s.op) (dataOf s.op)).EngineInv := by
  obtain ⟨hlife, hrsp, -, -⟩ := hinv.1 hguard
  obtain ⟨hnext, hlt⟩ := mpc_succ hrow
  rcases (s.perform row.op).afterMicro_cases (tableOf s.op) (statusOf s.op) (dataOf s.op) with ⟨-, hlast⟩ | ⟨hne, hmore⟩
  · rw [hlast]
    exact State.engineInv_of_free rfl rfl
  · rw [State.perform_mpc, hnext] at hne
    rw [hmore]
    refine ⟨fun _ => ⟨by simpa using hlife, by simpa using hrsp, ?_, by simp⟩, fun hfree => by simp [hguard] at hfree⟩
    rw [State.putFsm_mpc, State.perform_mpc, hnext, State.putFsm_op, State.perform_op]
    exact Nat.lt_of_le_of_ne hlt hne

theorem hostStep_guard_of_free (hguard : s.guard = false) (h : hostStep s = .next t) : t.guard = false := by
  rcases hostStep_engine h with ⟨-, -, hkept, -⟩ | ⟨_, _, _, -, -, -, -, -, -, hkept, -⟩ | ⟨-, -, -, hkept, -⟩
  · rw [hkept, hguard]
  · rw [hkept, State.initialise]
  · rw [hkept, ← hguard]
    simp [State.releaseLine]

theorem State.engineInv_of_step (hinv : s.EngineInv) (h : step s = .next t) : t.EngineInv := by
  rcases step_cases h with ⟨hguard, row, hrow, rfl⟩ | ⟨-, hlife, w, i, -, -, rfl⟩ | ⟨hguard, -, w, e, -, -, rfl⟩ | ⟨hguard, -, hhost⟩
  · exact State.engineInv_afterMicro hinv hguard hrow
  · exact s.engineInv_accepted i hlife
  · exact State.engineInv_of_free hguard (hinv.2 hguard)
  · exact State.engineInv_of_free (hostStep_guard_of_free hguard hhost) (hostStep_fsm_of_idle (hinv.2 hguard) hhost)

/-! ### The machine that faults on a read of an unspecified element (R39) -/

theorem Checked.step_of_unspecifiedRead {c : Checked} {e : Element} (hstep : Machine.step c.state = .next t)
    (hread : e ∈ c.state.reads t) (hnone : e ∈ c.unspecified) :
    ∃ e', e' ∈ c.unspecified ∧ e' ∈ c.state.reads t ∧ c.step = .fault (.unspecifiedRead e') := by
  cases hfind : (c.state.reads t).find? (fun e => decide (e ∈ c.unspecified)) with
  | none => simpa [hnone] using List.find?_eq_none.mp hfind e hread
  | some e' =>
    exact ⟨e', by simpa using List.find?_some hfind, List.mem_of_find?_eq_some hfind, by simp only [Checked.step, hstep, hfind]⟩

theorem Checked.step_unspecifiedRead {c : Checked} {e : Element} (h : c.step = .fault (.unspecifiedRead e)) :
    ∃ t, Machine.step c.state = .next t ∧ e ∈ c.state.reads t ∧ e ∈ c.unspecified := by
  unfold Checked.step at h
  split at h
  case h_1 t hstep =>
    split at h
    case h_1 e' hfind =>
      obtain rfl : e' = e := by simpa using h
      exact ⟨t, hstep, List.mem_of_find?_eq_some hfind, by simpa using List.find?_some hfind⟩
    case h_2 => cases h
  case h_2 => cases h
  case h_3 => cases h

theorem Checked.step_next {c d : Checked} (h : c.step = .next d) :
    Machine.step c.state = .next d.state
      ∧ ∀ e ∈ d.unspecified, (e ∈ c.unspecified ∧ e ∉ c.state.writes d.state) ∨ e ∈ c.state.forgets d.state := by
  unfold Checked.step at h
  split at h
  case h_1 t hstep =>
    split at h
    case h_1 => cases h
    case h_2 =>
      obtain rfl := Host.Outcome.next.inj h
      exact ⟨hstep, fun e he => by simpa using he⟩
  case h_2 => cases h
  case h_3 => cases h

theorem Checked.no_unspecifiedRead {c : Checked} (hinv : c.Inv) (e : Element) : c.step ≠ .fault (.unspecifiedRead e) := by
  obtain ⟨hengine, hunread⟩ := hinv
  intro hfault
  obtain ⟨t, hstep, hread, hnone⟩ := Checked.step_unspecifiedRead hfault
  simpa [hunread e hnone] using State.read_is_specified hengine hstep hread

theorem Checked.inv_of_step {c d : Checked} (hinv : c.Inv) (h : c.step = .next d) : d.Inv := by
  obtain ⟨hengine, hunread⟩ := hinv
  obtain ⟨hstep, hfrom⟩ := Checked.step_next h
  have hengine' : d.state.EngineInv := State.engineInv_of_step hengine hstep
  refine ⟨hengine', fun e he => ?_⟩
  rcases hfrom e he with ⟨hold, hwritten⟩ | hforgotten
  · exact State.unread_kept hengine hstep (hunread e hold) hwritten
  · exact State.forgotten_is_unread hengine' hforgotten

theorem Checked.inv_reset (u : Unspecified) : (Checked.reset u).Inv :=
  ⟨State.engineInv_of_free rfl rfl, fun e _ => by cases e <;> rfl⟩

/-! ### States that differ in unread elements only step alike (R39) -/

theorem State.hideUnread_powerOn (u u' : Unspecified) : (State.powerOn u).hideUnread = (State.powerOn u').hideUnread := rfl

theorem State.IdleAgree.pick_eq (h : s.IdleAgree s') : s.pick = s'.pick := by
  obtain ⟨hlife, -, -, -, -, -, -, -, -, -, hport, -⟩ := h.same
  simp only [State.pick, h.idle, h.idle', hlife, hport]

/-- An acceptance writes OP, MPC and its operand and clears RSP_VALID; at MPC 0 no sample has been taken, so the idle states' agreement
is all it takes (R73, R121). -/
theorem State.IdleAgree.hideUnread_accepted (h : s.IdleAgree s') (i : Instr) :
    (s.accepted i).hideUnread = (s'.accepted i).hideUnread := by
  obtain ⟨-, -, ⟨hlife, -, hscl, hsda, hsclMode, hsdaMode, -, htrace, henv, hinputs, -, howner, hcallers, hparams⟩, hcfg, -⟩ := h
  rw [State.hideUnread_eq_iff]
  refine ⟨?same, ?cfg, ?response, ?position, ?send, ?recv⟩
  case same =>
    cases i <;>
      simp [State.accepted, State.accept, loadOf, opOf, hlife, hscl, hsda, hsclMode, hsdaMode, htrace, henv, hinputs, howner, hcallers,
        hparams]
  case cfg => cases i <;> simpa [State.accepted, State.accept, loadOf, hlife] using hcfg
  case response | position => cases i <;> simp [State.accepted, State.accept, loadOf]
  case send => cases i <;> simp [State.accepted, State.accept, loadOf, opOf]
  case recv => cases i <;> simp [State.accepted, State.accept, loadOf, opOf, samplesBefore]

theorem State.IdleAgree.acceptIllegal (h : s.IdleAgree s') (w : Cmd) : (s.acceptIllegal w).IdleAgree (s'.acceptIllegal w) := by
  obtain ⟨hguard, hguard', ⟨hlife, hfsm, hscl, hsda, hsclMode, hsdaMode, -, htrace, henv, hinputs, -, howner, hcallers, hparams⟩, hcfg,
    -⟩ := h
  exact ⟨hguard, hguard', ⟨hlife, hfsm, hscl, hsda, hsclMode, hsdaMode, rfl, by simp only [State.acceptIllegal_trace, htrace], henv,
    hinputs, rfl, howner, hcallers, hparams⟩, hcfg, fun _ => ⟨rfl, rfl⟩⟩

theorem State.IdleAgree.step_hide (h : s.IdleAgree s') : Machine.hideOutcome (step s) = Machine.hideOutcome (step s') := by
  have same_life : s.life = s'.life := h.same.1
  simp only [step, h.pick_eq]
  rcases pick_cases s' with ⟨hheld, -⟩ | ⟨-, hlife, w, i, -, -, hpick⟩ | ⟨-, -, w, e, -, -, hpick⟩ | ⟨-, -, hpick⟩
  · simp [h.idle'] at hheld
  · simp only [hpick, exec_of_ready i h.idle (same_life.trans hlife), exec_of_ready i h.idle' hlife]
    exact congrArg Host.Outcome.next (h.hideUnread_accepted i)
  · simp only [hpick]
    exact (h.acceptIllegal w).hideOutcome
  · simp only [hpick]
    exact hostStep_hide h

theorem step_hide (h : s.hideUnread = s'.hideUnread) : hideOutcome (step s) = hideOutcome (step s') := by
  cases hguard : s.guard with
  | true => exact step_hide_of_guard hguard h
  | false => exact ((State.idleAgree_iff hguard).mpr h).step_hide

/-- Settles O36: at power-on every element without a specified value is one no rule reads yet; an element stays so until a step writes
it, and a step reads none that is. States that differ in such elements only take the same step by `step_hide`. -/
theorem resetState : Obligations.ResetState :=
  ⟨fun u => ⟨rfl, rfl, rfl, rfl, rfl, rfl, rfl, rfl, rfl, rfl, Checked.inv_reset u, State.hideUnread_powerOn u⟩, ⟨_, rfl⟩,
    fun _ _ _ => Checked.step_of_unspecifiedRead, fun _ hinv => ⟨Checked.no_unspecifiedRead hinv, fun _ => Checked.inv_of_step hinv⟩,
    fun _ _ => step_hide⟩

/-! ### INIT (R242) -/

section
variable {scl sda rate : Nat}

theorem State.init_outside_unconfigured (hlife : s.life ≠ .unconfigured) (a : Option (Nat × Nat × Nat)) :
    s.init a = .refused .initOutsideUnconfigured := by
  cases h : s.life with
  | unconfigured => exact absurd h hlife
  | configured | tornDown => simp only [State.init, h]

theorem State.init_of_failing_source (hlife : s.life = .unconfigured) : s.init none = .next (s, .configurationError) := by
  simp only [State.init, hlife]

theorem State.init_of_illegal (hlife : s.life = .unconfigured) (hbad : rate = 0 ∨ scl = sda) :
    s.init (some (scl, sda, rate)) = .next (s, .configurationError) := by
  simp only [State.init, hlife]
  rcases hbad with rfl | rfl <;> simp

theorem Params.tooWide_eq_false {p : Params} (hscl : scl < 2 ^ p.pinW) (hsda : sda < 2 ^ p.pinW) (hrate : rate < 2 ^ p.rateW) :
    Params.tooWide p scl sda rate = false := by
  simp [Params.tooWide, hscl, hsda, hrate]

theorem State.init_of_legal (hlife : s.life = .unconfigured) (hwide : Params.tooWide s.params scl sda rate = false) (hrate : rate ≠ 0)
    (hpins : scl ≠ sda) :
    s.init (some (scl, sda, rate)) =
      if s.inputs.nextAllocFails then .next (s.drawAlloc, .outOfResources)
      else .next (s.drawAlloc.initialise scl sda rate, .ok) := by
  simp [State.init, hlife, hwide, hrate, hpins]

theorem Inputs.dropAlloc_others (x : Inputs) :
    x.dropAlloc.env = x.env ∧ x.dropAlloc.elapsed = x.elapsed ∧ x.dropAlloc.grant = x.grant ∧ x.dropAlloc.stream = x.stream := by
  unfold Inputs.dropAlloc
  split <;> exact ⟨rfl, rfl, rfl, rfl⟩

theorem State.initialise_trace (s : State) :
    (s.initialise scl sda rate).trace =
      s.trace ++ ([.configure .scl, .configure .sda, .set .scl true, .set .sda true] : List Event) := by
  simp [State.initialise, State.releaseLine]

end

/-- Settles O44: its checks come before the draw, so a failing one leaves the state as it is; the draw touches no other, and past it
every register the effect does not write is kept. -/
theorem initConfiguresBus : Obligations.InitConfiguresBus := by
  intro s
  refine ⟨State.init_outside_unconfigured, fun hlife => ⟨State.init_of_failing_source hlife, fun _ _ _ => State.init_of_illegal hlife,
    fun scl sda rate hscl hsda hwidth hrate hpins => ?_⟩⟩
  rw [State.init_of_legal hlife (Params.tooWide_eq_false hscl hsda hwidth) hrate hpins]
  have draws := s.inputs.dropAlloc_others
  refine ⟨fun hfails => ?noResources, fun hsucceeds => ?configured⟩
  case noResources => exact ⟨s.inputs.dropAlloc, if_pos hfails, draws⟩
  case configured =>
    rw [if_neg (by simp [hsucceeds])]
    exact ⟨s.drawAlloc.initialise scl sda rate, rfl, rfl, s.drawAlloc.initialise_trace, rfl, rfl, rfl, rfl, rfl, rfl, rfl, rfl, rfl, rfl,
      rfl, rfl, rfl, rfl, rfl, rfl, rfl, rfl, rfl, rfl, draws⟩

end Sys2Proof.Machine
end

section
/-! PROOFS. Decoding and encoding are inverse to each other, and which words are illegal (R71 to R75). -/

namespace Sys2Proof

/-! ### A word decodes to an instruction exactly when it is its encoding -/

theorem fieldsOf_encode (i : Instr) :
    fieldsOf (encode i) =
      match i with
      | .start => { op := 0#2, ack := false, rsv := 0#5, data := 0#8 }
      | .stop => { op := 1#2, ack := false, rsv := 0#5, data := 0#8 }
      | .send b => { op := 2#2, ack := false, rsv := 0#5, data := b }
      | .recv a => { op := 3#2, ack := a, rsv := 0#5, data := 0#8 } := by
  cases i with
  | start | stop => rfl
  | send b =>
    obtain ⟨send_op, send_rsv, -⟩ := Laws.OpField.send b
    have send_ack : (encode (.send b)).getLsbD 2 = false := by simp [encode]
    have shifted : (b.setWidth 16 <<< 8).extractLsb' 8 8 = b := by
      ext j hj
      simp [hj, show 8 + j < 16 by omega]
    have send_data : (encode (.send b)).extractLsb' 8 8 = b := by
      rw [encode, BitVec.extractLsb'_or, shifted]
      exact BitVec.or_zero
    exact Fields.mk.injEq .. ▸ ⟨send_op, send_ack, send_rsv, send_data⟩
  | recv a => cases a <;> rfl

/-- The decoder asks of a word's fields exactly that they be the instruction's. -/
theorem decode_eq_ok_iff (w : Cmd) (i : Instr) : decode w = .ok i ↔ w = encode i := by
  rw [← fieldsOf_injective.eq_iff, fieldsOf_encode, decode]
  obtain ⟨op, ack, rsv, data⟩ := fieldsOf w
  cases i with
  | start => simp [decodeFields_eq_start_iff]
  | stop => simp [decodeFields_eq_stop_iff]
  | send b => simp [decodeFields_eq_send_iff, and_assoc]
  | recv a =>
    rw [decodeFields_eq_recv_iff, Fields.mk.injEq]
    tauto

@[simp] theorem decode_encode (i : Instr) : decode (encode i) = .ok i :=
  (decode_eq_ok_iff _ i).mpr rfl

theorem encode_injective : Function.Injective encode := by
  intro i j h
  simpa using congrArg decode h

theorem wordOfBits_toNat (w : Cmd) : wordOfBits 16 w.toNat = w := by
  rw [wordOfBits, Nat.mod_eq_of_lt w.isLt, BitVec.ofNat_toNat, BitVec.setWidth_eq]

/-- Settles O1: every instruction's word has the fields the decoder asks for, and a table row's 16 bits are the word itself. -/
theorem decodeOfEncode : Obligations.DecodeOfEncode :=
  fun i _ => ⟨decode_encode i, by rw [decodeTableWord, wordOfBits_toNat, decode_encode]⟩

/-- Settles O2: `decode_eq_ok_iff`, from left to right. -/
theorem encodeOfDecode : Obligations.EncodeOfDecode :=
  fun w i h => ((decode_eq_ok_iff w i).mp h).symm

/-! ### The illegal words (R74) -/

theorem decodeFields_error_iff (f : Fields) :
    (∃ e, decodeFields f = .error e) ↔ f.rsv ≠ 0#5 ∨ (f.ack = true ∧ f.op ≠ 3#2) ∨ (f.data ≠ 0#8 ∧ f.op ≠ 2#2) := by
  rw [ne_eq f.op, ne_eq f.op, op_eq_three_iff]
  unfold decodeFields
  split_ifs <;> simp_all

/-- A word that does not decode selects no row: each row's test is a command's. -/
theorem selects_eq_false_of_decode_error {w : Cmd} {e : Illegal} (h : decode w = .error e) : ∀ r ∈ opcodeMap, r.selects w = false := by
  obtain ⟨start_iff, stop_iff, send_iff, recv_iff, -⟩ := opcodeMapSelects w
  have not_ok (i : Instr) : ¬ decode w = .ok i := by simp [h]
  have no_row : ¬ w &&& 0xFFFF#16 = 0x0000#16 ∧ ¬ w &&& 0xFFFF#16 = 0x0001#16 ∧ ¬ w &&& 0x00FF#16 = 0x0002#16
      ∧ ¬ w &&& 0xFFFB#16 = 0x0003#16 :=
    ⟨fun hw => not_ok _ (start_iff.mpr hw), fun hw => not_ok _ (stop_iff.mpr hw), fun hw => not_ok _ ((send_iff _).mpr ⟨hw, rfl⟩),
      fun hw => not_ok _ ((recv_iff _).mpr ⟨hw, rfl⟩)⟩
  simpa [opcodeMap, OpcodeRow.selects, beq_eq_false_iff_ne] using no_row

theorem decode_error_iff_no_row (w : Cmd) : (∃ e, decode w = .error e) ↔ ∀ r ∈ opcodeMap, r.selects w = false :=
  ⟨fun ⟨_, h⟩ => selects_eq_false_of_decode_error h, Machine.decode_error_of_no_row⟩

/-- All instructions, each once: SEND at every byte and RECV at either request. -/
def allInstrs : List Instr :=
  [.start, .stop, .recv false, .recv true] ++ (List.finRange 256).map fun n => .send (BitVec.ofFin n)

theorem mem_allInstrs (i : Instr) : i ∈ allInstrs := by
  cases i with
  | start | stop => simp [allInstrs]
  | send b => exact List.mem_append_right _ (List.mem_map.mpr ⟨b.toFin, List.mem_finRange _, rfl⟩)
  | recv a => cases a <;> simp [allInstrs]

theorem allInstrs_nodup : allInstrs.Nodup := by
  have send_injective : Function.Injective fun n : Fin 256 => Instr.send (BitVec.ofFin n) := fun _ _ h => by simpa using h
  refine List.nodup_append.mpr ⟨by decide, (List.nodup_finRange 256).map send_injective, fun i hi j hj => ?_⟩
  obtain ⟨n, -, rfl⟩ := List.mem_map.mp hj
  rintro rfl
  simp at hi

/-- Settles O4: the decoder's tests are R74's three causes and, by `opcodeMapSelects`, the rows' masks; the legal words are the
encodings of the 260 instructions. -/
theorem illegalWordsAreUnusedFields : Obligations.IllegalWordsAreUnusedFields := by
  refine ⟨fun w => ⟨decodeFields_error_iff (fieldsOf w), decode_error_iff_no_row w⟩, allInstrs.map encode, ?count,
    allInstrs_nodup.map encode_injective, fun w => ?legal⟩
  case count => simp [allInstrs]
  case legal => simp only [decode_eq_ok_iff, List.mem_map, mem_allInstrs, true_and, eq_comm (a := w)]

/-! ### Words written out, and the opcode field (R71, R72) -/

/-- Settles O5: the decoder, run on each word. -/
theorem specWordsDecode : Obligations.SpecWordsDecode := by
  unfold Obligations.SpecWordsDecode
  decide

/-- Settles O6: one lemma per constructor. -/
theorem opcodeFieldOfEveryInstr : Obligations.OpcodeFieldOfEveryInstr
  | .start => Laws.OpField.start
  | .stop => Laws.OpField.stop
  | .send b => Laws.OpField.send b
  | .recv a => Laws.OpField.recv a

end Sys2Proof
end

section
/-! PROOFS. One engine step: what it runs, what it changes and what it leaves alone (41_bus_primitives.md, 30_encoding.md section 3). -/

namespace Sys2Proof.Machine

variable {s t : State} {i : Instr} {row : MicroRow}

/-! ### What a step runs (R76, R121) -/

theorem step_of_guard (hguard : s.guard = true) : step s = exec s.inFlight s := by
  have hpick : s.pick = .run s.inFlight := by simp only [State.pick, hguard]
  rw [step, hpick]

theorem step_of_presented {w : Cmd} (hlife : s.life = .configured) (hguard : s.guard = false) (hport : s.port = some w)
    (hdec : decode w = .ok i) : step s = exec i s := by
  have hpick : s.pick = .run i := by simp only [State.pick, hguard, hlife, hport, hdec]
  rw [step, hpick]

theorem State.presenting_life (s : State) (w : Cmd) : (s.presenting w).life = .configured := by
  cases h : s.life <;> simp [State.presenting, State.madeConfigured, h]

theorem decode_of_decodeTableWord {w : Nat} (h : decodeTableWord 16 w = some i) : decode (wordOfBits 16 w) = .ok i := by
  unfold decodeTableWord at h
  split at h
  case h_1 j hj => rw [hj, Option.some.inj h]
  case h_2 => cases h

/-- Settles O9: `step` calls `exec` on what `State.pick` finds, and the presenting state is ready. -/
theorem stepRunsDecodedInstruction : Obligations.StepRunsDecodedInstruction :=
  ⟨fun _ _ _ => step_of_presented, fun _ => step_of_guard,
    fun s _ _ hword => step_of_presented (s.presenting_life _) rfl rfl (decode_of_decodeTableWord hword)⟩

/-! ### Every command that runs, waits or is stuck: `exec_cases` the other way round -/

theorem exec_of_row (hguard : s.guard = true) (hrow : (tableOf s.op)[s.mpc.toNat]? = some row) :
    exec s.inFlight s = .next ((s.perform row.op).afterMicro (tableOf s.op) (statusOf s.op) (dataOf s.op)) :=
  (step_of_guard hguard).symm.trans (step_of_row hguard hrow)

theorem exec_of_other (hguard : s.guard = true) (hother : s.inFlight ≠ i) : exec i s = .next s := by
  simp [exec_eq_commandStep, commandStep, hguard, hother]

theorem step_of_mpc_past (hguard : s.guard = true) (hpast : lengthOf s.op ≤ s.mpc.toNat) : step s = .fault .mpcBeyondTable := by
  have no_row : (tableOf s.op)[s.mpc.toNat]? = none := List.getElem?_eq_none_iff.mpr hpast
  simp [step_of_guard hguard, exec_eq_commandStep, commandStep, hguard, microStep, no_row]

theorem exists_row_of_mpc_lt (hlt : s.mpc.toNat < lengthOf s.op) : ∃ row, (tableOf s.op)[s.mpc.toNat]? = some row :=
  ⟨_, List.getElem?_eq_getElem hlt⟩

/-- Settles O15: the common engine step, at each of its stops; under the engine's invariant MPC is at a row. -/
theorem whereCommandsStop : Obligations.WhereCommandsStop := by
  refine ⟨fun i s hguard => ⟨fun hlife => ?unconfigured, fun hlife => ?tornDown⟩, fun s => step_of_mpc_past,
    fun s hinv hguard => ?progress⟩
  case unconfigured | tornDown => simp [exec_eq_commandStep, commandStep, hguard, hlife]
  case progress =>
    obtain ⟨-, -, hlt, -⟩ := hinv.1 hguard
    obtain ⟨row, hrow⟩ := exists_row_of_mpc_lt hlt
    exact ⟨_, step_of_row hguard hrow⟩

/-! ### What follows a micro-operation leaves alone (R121) -/

section
variable (s : State) (table : List MicroRow) (status : State → Status) (data : State → Byte)

@[simp] theorem State.afterMicro_life : (s.afterMicro table status data).life = s.life := by
  unfold State.afterMicro; split <;> rfl
@[simp] theorem State.afterMicro_cfg : (s.afterMicro table status data).cfg = s.cfg := by
  unfold State.afterMicro; split <;> rfl
@[simp] theorem State.afterMicro_op : (s.afterMicro table status data).op = s.op := by
  unfold State.afterMicro; split <;> rfl
@[simp] theorem State.afterMicro_shift : (s.afterMicro table status data).shift = s.shift := by
  unfold State.afterMicro; split <;> rfl
@[simp] theorem State.afterMicro_ackReq : (s.afterMicro table status data).ackReq = s.ackReq := by
  unfold State.afterMicro; split <;> rfl
@[simp] theorem State.afterMicro_ackBit : (s.afterMicro table status data).ackBit = s.ackBit := by
  unfold State.afterMicro; split <;> rfl
@[simp] theorem State.afterMicro_drivers : (s.afterMicro table status data).drivers = s.drivers := by
  unfold State.afterMicro; split <;> rfl
@[simp] theorem State.afterMicro_sclMode : (s.afterMicro table status data).sclMode = s.sclMode := by
  unfold State.afterMicro; split <;> rfl
@[simp] theorem State.afterMicro_sdaMode : (s.afterMicro table status data).sdaMode = s.sdaMode := by
  unfold State.afterMicro; split <;> rfl
@[simp] theorem State.afterMicro_env : (s.afterMicro table status data).env = s.env := by
  unfold State.afterMicro; split <;> rfl
@[simp] theorem State.afterMicro_port : (s.afterMicro table status data).port = s.port := by
  unfold State.afterMicro; split <;> rfl
@[simp] theorem State.afterMicro_owner : (s.afterMicro table status data).owner = s.owner := by
  unfold State.afterMicro; split <;> rfl
@[simp] theorem State.afterMicro_callers : (s.afterMicro table status data).callers = s.callers := by
  unfold State.afterMicro; split <;> rfl
@[simp] theorem State.afterMicro_params : (s.afterMicro table status data).params = s.params := by
  unfold State.afterMicro; split <;> rfl

/-- A completion draws MPC's free value (R29): it moves the counter and no list of draws. -/
theorem State.afterMicro_inputs : ∃ n, (s.afterMicro table status data).inputs = { s.inputs with draws := n } := by
  unfold State.afterMicro
  split
  · exact ⟨_, rfl⟩
  · exact ⟨s.inputs.draws, rfl⟩

end

/-- No line event but a SAMPLE's draws: the host's draws are kept by every micro-operation. -/
theorem State.perform_hostInputs (s : State) (m : MicroOp) :
    (s.perform m).inputs.elapsed = s.inputs.elapsed ∧ (s.perform m).inputs.alloc = s.inputs.alloc
      ∧ (s.perform m).inputs.grant = s.inputs.grant ∧ (s.perform m).inputs.stream = s.inputs.stream :=
  s.performRows_hostInputs [{ op := m, fsm := .idle }]

/-! ### Frames: the pins and the host side (R22, R23, R51, R108) -/

theorem State.SamePins.refl (s : State) : s.SamePins s := ⟨rfl, rfl, rfl, rfl⟩

theorem State.sameHost_of_callers (hcallers : t.callers = s.callers) (howner : t.owner = s.owner) (hparams : t.params = s.params)
    (hinputs : t.inputs.elapsed = s.inputs.elapsed ∧ t.inputs.alloc = s.inputs.alloc ∧ t.inputs.grant = s.inputs.grant
      ∧ t.inputs.stream = s.inputs.stream) : s.SameHost t :=
  ⟨hcallers, fun k j => by simp only [State.bufferByte, hcallers], howner, hparams, hinputs⟩

theorem State.SameHost.refl (s : State) : s.SameHost s :=
  State.sameHost_of_callers rfl rfl rfl ⟨rfl, rfl, rfl, rfl⟩

theorem State.samePins_afterMicro (s : State) (row : MicroRow) :
    s.SamePins ((s.perform row.op).afterMicro (tableOf s.op) (statusOf s.op) (dataOf s.op)) := by
  simp [State.SamePins]

theorem State.sameHost_afterMicro (s : State) (row : MicroRow) :
    s.SameHost ((s.perform row.op).afterMicro (tableOf s.op) (statusOf s.op) (dataOf s.op)) := by
  obtain ⟨n, hinputs⟩ := (s.perform row.op).afterMicro_inputs (tableOf s.op) (statusOf s.op) (dataOf s.op)
  exact State.sameHost_of_callers (by simp) (by simp) (by simp) (by simpa only [hinputs] using s.perform_hostInputs row.op)

theorem State.samePins_accepted (s : State) (i : Instr) : s.SamePins (s.accepted i) := by
  obtain ⟨-, -, -, -, -, -, -, -, -, -, -, hlife, hcfg, -, hscl, hsda, -⟩ := s.accept_fields i
  exact ⟨hlife, hcfg, hscl, hsda⟩

theorem State.sameHost_accepted (s : State) (i : Instr) : s.SameHost (s.accepted i) := by
  obtain ⟨-, -, -, -, -, -, -, -, -, -, -, -, -, -, -, -, howner, hcallers, hparams⟩ := s.accept_fields i
  exact State.sameHost_of_callers hcallers howner hparams (by rw [State.accepted_inputs]; exact ⟨rfl, rfl, rfl, rfl⟩)

/-- Settles O10: what `State.accept` writes, field by field (`State.accept_fields`). -/
theorem acceptanceSetsUpCommand : Obligations.AcceptanceSetsUpCommand := by
  intro i s hlife hguard
  obtain ⟨hheld, hop, hmpc, -, hrsp, hport, htrace, -, hscl, hsda, henv, -, -, hackBit, -⟩ := s.accept_fields i
  exact ⟨s.accepted i, exec_of_ready i hguard hlife, hheld, hop, hmpc, hrsp, hport, htrace, accept_fsm s i, s.accepted_shift i,
    s.accepted_ackReq i, hackBit, hscl, hsda, henv, s.samePins_accepted i, s.sameHost_accepted i⟩

/-! ### One micro-operation, and the last one (R121, R138) -/

theorem afterMicro_of_lt (hrow : (tableOf s.op)[s.mpc.toNat]? = some row) (hlt : s.mpc.toNat + 1 < lengthOf s.op) :
    (s.perform row.op).afterMicro (tableOf s.op) (statusOf s.op) (dataOf s.op) =
      (s.perform row.op).putFsm (fsmAt (tableOf s.op) (s.mpc.toNat + 1)) := by
  obtain ⟨hnext, -⟩ := mpc_succ hrow
  rw [State.afterMicro, State.perform_mpc, hnext, ← lengthOf, if_neg (Nat.ne_of_lt hlt)]

theorem afterMicro_of_last (hrow : (tableOf s.op)[s.mpc.toNat]? = some row) (hlast : s.mpc.toNat + 1 = lengthOf s.op) :
    (s.perform row.op).afterMicro (tableOf s.op) (statusOf s.op) (dataOf s.op) =
      (s.perform row.op).complete (statusOf s.op (s.perform row.op)) (dataOf s.op (s.perform row.op)) := by
  obtain ⟨hnext, -⟩ := mpc_succ hrow
  rw [State.afterMicro, State.perform_mpc, hnext, ← lengthOf, if_pos hlast]

theorem State.complete_trace (s : State) (st : Status) (d : Byte) : (s.complete st d).trace = s.trace ++ [.done st d] := rfl

/-- Settles O12: `afterMicro_of_lt` before the last row and `afterMicro_of_last` at it. -/
theorem oneMicroOperationPerStep : Obligations.OneMicroOperationPerStep := by
  intro s row hguard hrow
  refine ⟨_, step_of_row hguard hrow, exec_of_row hguard hrow, ?drivers, fun hlt => ?before, fun hlast => ?last⟩
  case drivers => rw [State.afterMicro_drivers, State.drivers_perform]
  case before =>
    rw [afterMicro_of_lt hrow hlt]
    obtain ⟨hnext, -⟩ := mpc_succ hrow
    exact ⟨s.perform_trace row.op, by rw [State.putFsm_mpc, State.perform_mpc, hnext], by simp [hguard], rfl, by simp, by simp, by simp⟩
  case last =>
    rw [afterMicro_of_last hrow hlast]
    refine ⟨?_, rfl, rfl, rfl⟩
    rw [State.complete_trace, State.perform_trace, List.append_assoc]
    rfl

/-- What a running command's step appends to TRACE: its line event, with `Done` if it completes. -/
theorem State.afterMicro_trace (s : State) (row : MicroRow) :
    let t := (s.perform row.op).afterMicro (tableOf s.op) (statusOf s.op) (dataOf s.op)
    ∃ es, t.trace = s.trace ++ s.eventOf row.op :: es ∧ (es = [] ∨ es = [.done t.rspStatus t.rspData]) := by
  intro t
  rcases (s.perform row.op).afterMicro_cases (tableOf s.op) (statusOf s.op) (dataOf s.op) with ⟨-, h⟩ | ⟨-, h⟩
  · have htrace : t.trace = s.trace ++ [s.eventOf row.op] ++ [.done t.rspStatus t.rspData] := by
      rw [show t = _ from h, State.complete_trace, State.perform_trace]
      rfl
    exact ⟨_, htrace.trans (List.append_assoc ..), .inr rfl⟩
  · have htrace : t.trace = s.trace ++ [s.eventOf row.op] := by
      rw [show t = _ from h]
      exact s.perform_trace row.op
    exact ⟨[], htrace, .inl rfl⟩

theorem State.eventOf_line (s : State) (m : MicroOp) :
    (∃ l v, s.eventOf m = .set l v) ∨ s.eventOf m = .delay ∨ ∃ v, s.eventOf m = .sample v := by
  cases m <;> simp [State.eventOf]

theorem step_cases_of_guard (hguard : s.guard = true) (h : step s = .next t) :
    ∃ row, (tableOf s.op)[s.mpc.toNat]? = some row
      ∧ t = (s.perform row.op).afterMicro (tableOf s.op) (statusOf s.op) (dataOf s.op) := by
  rcases step_cases h with ⟨-, hrow⟩ | ⟨hfree, -⟩ | ⟨hfree, -⟩ | ⟨hfree, -⟩
  · exact hrow
  all_goals simp [hguard] at hfree

/-- Settles O13: the step is the running command's micro-operation, and a command that is not in flight finds the guard taken. -/
theorem guardExcludesOthers : Obligations.GuardExcludesOthers := by
  refine fun s hguard => ⟨fun t hstep => ?running, fun j hother => exec_of_other hguard hother.symm⟩
  obtain ⟨row, -, rfl⟩ := step_cases_of_guard hguard hstep
  obtain ⟨es, htrace, hes⟩ := s.afterMicro_trace row
  refine ⟨s.samePins_afterMicro row, s.sameHost_afterMicro row, by simp, s.eventOf row.op, ?_, s.eventOf_line row.op⟩
  rcases hes with rfl | rfl
  · exact .inl htrace
  · exact .inr htrace

/-! ### How long a command runs (R138, R139) -/

/-- Settles O21: on the way `State.run_accepted`, at the end `exec_run_completed`; the counts are the tables' lengths. -/
theorem commandsTakeFixedSteps : Obligations.CommandsTakeFixedSteps := by
  intro i s hlife hguard
  obtain ⟨haccepted, hcompleted⟩ := exec_run_completed i hlife hguard
  refine ⟨s.accepted i, haccepted, by cases i <;> rfl, fun k hk => ?onTheWay, s.completed i, hcompleted, rfl, rfl⟩
  have hk : k < lengthOf (opOf i) := Nat.lt_of_succ_lt_succ hk
  obtain ⟨u, hrun, hheld, hmpc, -⟩ := s.run_accepted i hk
  obtain ⟨-, haccept, -⟩ := s.accept_fields i
  obtain ⟨-, -, -, hkept, -⟩ := State.performRows_frame ((tableOf (opOf i)).take k) (s.accepted i)
  have op_eq : u.op = opOf i := by
    rw [Host.Outcome.next.inj (hrun.symm.trans (run_into_command i hk)), State.putFsm_op]
    exact hkept.trans haccept
  exact ⟨u, hrun, hheld, op_eq, hmpc⟩

end Sys2Proof.Machine
end

section
/-! PROOFS. Who reads and writes the data registers and the drives: the frames of the four commands, and that SCL is never read
(41_bus_primitives.md sections 2 to 5, 40_gpio_line.md section 2). -/

namespace Sys2Proof.Machine

variable {s s' t : State} {i : Instr} {row : MicroRow}

/-! ### A running command writes a data register or draws a drive at its sampling rows only (R30, R32, R35) -/

theorem State.afterMicro_ackReq_of_row (s : State) (row : MicroRow) :
    ((s.perform row.op).afterMicro (tableOf s.op) (statusOf s.op) (dataOf s.op)).ackReq = s.ackReq := by
  simp

/-- SHIFT is written by RECV's samples only. -/
theorem afterMicro_shift_of_row (hrow : (tableOf s.op)[s.mpc.toNat]? = some row) (hop : s.op ≠ .recv) :
    ((s.perform row.op).afterMicro (tableOf s.op) (statusOf s.op) (dataOf s.op)).shift = s.shift := by
  obtain ⟨-, -, sampleBit_op, -⟩ := row_facts hrow
  rw [State.afterMicro_shift, State.perform_shift]
  cases hm : row.op with
  | sampleBit k => exact absurd (sampleBit_op k hm).1 hop
  | _ => rfl

/-- ACKBIT is written at SEND's MPC 52 only. -/
theorem afterMicro_ackBit_of_row (hrow : (tableOf s.op)[s.mpc.toNat]? = some row) (hack : ¬ (s.op = .send ∧ s.mpc.toNat = 52)) :
    ((s.perform row.op).afterMicro (tableOf s.op) (statusOf s.op) (dataOf s.op)).ackBit = s.ackBit := by
  obtain ⟨-, sampleAck_iff, -⟩ := row_facts hrow
  rw [State.afterMicro_ackBit, State.perform_ackBit]
  cases hm : row.op with
  | sampleAck => exact absurd (sampleAck_iff.mp hm) hack
  | _ => rfl

theorem State.perform_of_not_sampling (s : State) {m : MicroOp} (hack : m ≠ .sampleAck) (hbit : ∀ k, m ≠ .sampleBit k) :
    (s.perform m).shift = s.shift ∧ (s.perform m).ackBit = s.ackBit ∧ (s.perform m).env = s.env ∧ (s.perform m).inputs = s.inputs := by
  cases m with
  | sampleAck => exact absurd rfl hack
  | sampleBit k => exact absurd rfl (hbit k)
  | set l v => cases l <;> exact ⟨rfl, rfl, rfl, rfl⟩
  | setShiftBit k | setAckReq | delay => exact ⟨rfl, rfl, rfl, rfl⟩

/-- A row that does not sample leaves SHIFT, ACKBIT, the environment's drive and its draws alone. -/
theorem State.afterMicro_of_not_sampling (s : State) (hack : row.op ≠ .sampleAck) (hbit : ∀ k, row.op ≠ .sampleBit k) :
    let t := (s.perform row.op).afterMicro (tableOf s.op) (statusOf s.op) (dataOf s.op)
    t.shift = s.shift ∧ t.ackBit = s.ackBit ∧ t.env = s.env ∧ t.inputs.env = s.inputs.env := by
  obtain ⟨hshift, hackBit, henv, hinputs⟩ := s.perform_of_not_sampling hack hbit
  obtain ⟨n, hdraws⟩ := (s.perform row.op).afterMicro_inputs (tableOf s.op) (statusOf s.op) (dataOf s.op)
  simp only [State.afterMicro_shift, State.afterMicro_ackBit, State.afterMicro_env, hdraws, hshift, hackBit, henv, hinputs, and_self]

/-- RECV samples at 3, 8, ..., 38 (R134). -/
theorem mpc_of_sampleBit (hrow : (tableOf s.op)[s.mpc.toNat]? = some row) {k : Fin 8} (hbit : row.op = .sampleBit k) :
    s.op = .recv ∧ s.mpc.toNat ∈ [3, 8, 13, 18, 23, 28, 33, 38] := by
  obtain ⟨-, -, sampleBit_facts, -⟩ := row_facts hrow
  obtain ⟨hop, hbefore, hafter⟩ := sampleBit_facts k hbit
  unfold samplesBefore at hbefore hafter
  refine ⟨hop, ?_⟩
  simp only [List.mem_cons, List.not_mem_nil, or_false]
  omega

/-! ### Frames of the commands, one engine step each -/

/-- What every command's engine step leaves unchanged (R22, R51, R76). -/
theorem exec_frame (h : exec i s = .next t) :
    s.SamePins t ∧ s.SameHost t
      ∧ (s.guard = true → t.guard = true → t.rspValid = s.rspValid ∧ t.rspStatus = s.rspStatus ∧ t.rspData = s.rspData)
      ∧ (s.guard = true → t.port = s.port ∧ t.op = s.op) := by
  rcases exec_cases h with ⟨-, -, row, hrow, rfl⟩ | ⟨-, -, rfl⟩ | ⟨hfree, -, rfl⟩
  · refine ⟨s.samePins_afterMicro row, s.sameHost_afterMicro row, fun _ hheld => ?_, fun _ => by simp⟩
    rcases (s.perform row.op).afterMicro_cases (tableOf s.op) (statusOf s.op) (dataOf s.op) with ⟨-, e⟩ | ⟨-, e⟩
    · rw [e] at hheld
      cases hheld
    · simp [e]
  · exact ⟨.refl _, .refl _, fun _ _ => ⟨rfl, rfl, rfl⟩, fun _ => ⟨rfl, rfl⟩⟩
  · exact ⟨s.samePins_accepted i, s.sameHost_accepted i, fun hheld => by simp [hfree] at hheld, fun hheld => by simp [hfree] at hheld⟩

theorem op_of_inFlight (h : s.inFlight = i) : s.op = opOf i := by
  rw [← h, opOf_inFlight]

/-- What an acceptance leaves of the flag and the drives: all of them. -/
theorem State.accepted_drives (s : State) (i : Instr) :
    (s.accepted i).ackBit = s.ackBit ∧ (s.accepted i).env = s.env ∧ (s.accepted i).inputs.env = s.inputs.env := by
  obtain ⟨-, -, -, -, -, -, -, -, -, -, henv, -, -, hackBit, -⟩ := s.accept_fields i
  exact ⟨hackBit, henv, by rw [State.accepted_inputs]; rfl⟩

/-- Settles O30: no row of their tables samples, and their acceptance loads nothing. -/
theorem startStopFrame : Obligations.StartStopFrame := by
  intro i s t hi h
  obtain ⟨hpins, hhost, hrsp, hport⟩ := exec_frame h
  suffices hdata : t.shift = s.shift ∧ t.ackReq = s.ackReq ∧ t.ackBit = s.ackBit ∧ t.env = s.env ∧ t.inputs.env = s.inputs.env by
    obtain ⟨hshift, hackReq, hackBit, henv, hdraws⟩ := hdata
    exact ⟨hshift, hackReq, hackBit, henv, hdraws, hpins, hhost, hrsp, hport⟩
  rcases exec_cases h with ⟨-, hfly, row, hrow, rfl⟩ | ⟨-, -, rfl⟩ | ⟨-, -, rfl⟩
  · have hop : s.op = .start ∨ s.op = .stop := by
      rw [op_of_inFlight hfly]
      exact hi.imp (congrArg opOf) (congrArg opOf)
    obtain ⟨-, sampleAck_iff, sampleBit_op, -⟩ := row_facts hrow
    have hack : row.op ≠ .sampleAck := fun hm => by simp [(sampleAck_iff.mp hm).1] at hop
    have hbit : ∀ k, row.op ≠ .sampleBit k := fun k hm => by simp [(sampleBit_op k hm).1] at hop
    obtain ⟨hshift, hackBit, henv, hdraws⟩ := s.afterMicro_of_not_sampling hack hbit
    exact ⟨hshift, s.afterMicro_ackReq_of_row row, hackBit, henv, hdraws⟩
  · exact ⟨rfl, rfl, rfl, rfl, rfl⟩
  · have hloads : (s.accepted i).shift = s.shift ∧ (s.accepted i).ackReq = s.ackReq := by rcases hi with rfl | rfl <;> exact ⟨rfl, rfl⟩
    exact ⟨hloads.1, hloads.2, s.accepted_drives i⟩

/-- Settles O31: SEND's one sampling row is at MPC 52, and no row of it writes SHIFT. -/
theorem sendFrame : Obligations.SendFrame := by
  intro b s t h
  obtain ⟨hpins, hhost, hrsp, hport⟩ := exec_frame h
  suffices hdata : t.ackReq = s.ackReq ∧ (s.guard = true → t.shift = s.shift)
      ∧ ((s.guard = false ∨ s.mpc ≠ 52#6) → t.ackBit = s.ackBit ∧ t.env = s.env ∧ t.inputs.env = s.inputs.env) by
    obtain ⟨hackReq, hshift, hdrives⟩ := hdata
    exact ⟨hackReq, hshift, hdrives, hpins, hhost, hrsp, hport⟩
  rcases exec_cases h with ⟨hguard, hfly, row, hrow, rfl⟩ | ⟨-, -, rfl⟩ | ⟨hguard, -, rfl⟩
  · have hop : s.op = .send := op_of_inFlight hfly
    obtain ⟨-, sampleAck_iff, sampleBit_op, -⟩ := row_facts hrow
    refine ⟨s.afterMicro_ackReq_of_row row, fun _ => afterMicro_shift_of_row hrow (by simp [hop]), fun hmpc => ?_⟩
    have hack : row.op ≠ .sampleAck := fun hm => by
      have : s.mpc = 52#6 := BitVec.eq_of_toNat_eq (sampleAck_iff.mp hm).2
      simp [hguard, this] at hmpc
    have hbit : ∀ k, row.op ≠ .sampleBit k := fun k hm => by simp [(sampleBit_op k hm).1] at hop
    obtain ⟨-, hdrives⟩ := s.afterMicro_of_not_sampling hack hbit
    exact hdrives
  · exact ⟨rfl, fun _ => rfl, fun _ => ⟨rfl, rfl, rfl⟩⟩
  · exact ⟨rfl, fun hheld => by simp [hguard] at hheld, fun _ => s.accepted_drives (.send b)⟩

/-- Settles O32: RECV's sampling rows are the eight, and none of its rows writes ACKBIT. -/
theorem recvFrame : Obligations.RecvFrame := by
  intro k s t h
  obtain ⟨hpins, hhost, hrsp, hport⟩ := exec_frame h
  suffices hdata : t.ackBit = s.ackBit ∧ (s.guard = true → t.ackReq = s.ackReq)
      ∧ ((s.guard = false ∨ s.mpc.toNat ∉ [3, 8, 13, 18, 23, 28, 33, 38]) →
        t.shift = s.shift ∧ t.env = s.env ∧ t.inputs.env = s.inputs.env) by
    obtain ⟨hackBit, hackReq, hdrives⟩ := hdata
    exact ⟨hackBit, hackReq, hdrives, hpins, hhost, hrsp, hport⟩
  rcases exec_cases h with ⟨hguard, hfly, row, hrow, rfl⟩ | ⟨-, -, rfl⟩ | ⟨hguard, -, rfl⟩
  · have hop : s.op = .recv := op_of_inFlight hfly
    obtain ⟨-, sampleAck_iff, -⟩ := row_facts hrow
    have hack : row.op ≠ .sampleAck := fun hm => by simp [(sampleAck_iff.mp hm).1] at hop
    refine ⟨afterMicro_ackBit_of_row hrow (by simp [hop]), fun _ => s.afterMicro_ackReq_of_row row, fun hmpc => ?_⟩
    have hbit : ∀ j, row.op ≠ .sampleBit j := fun j hm =>
      hmpc.resolve_left (by simp [hguard]) (mpc_of_sampleBit hrow hm).2
    obtain ⟨hshift, -, hdrives⟩ := s.afterMicro_of_not_sampling hack hbit
    exact ⟨hshift, hdrives⟩
  · exact ⟨rfl, fun _ => rfl, fun _ => ⟨rfl, rfl, rfl⟩⟩
  · obtain ⟨hackBit, hdrives⟩ := s.accepted_drives (.recv k)
    exact ⟨hackBit, fun hheld => by simp [hguard] at hheld, fun _ => ⟨rfl, hdrives⟩⟩

/-! ### SCL is never read (R106) -/

/-- The drawn drive's SDA does not depend on what is fixed of SCL, and neither do the draws left. -/
theorem State.hideScl_perform (s : State) (m : MicroOp) : (s.hideScl.perform m).hideScl = (s.perform m).hideScl := by
  have draws : s.hideScl.sampleLevel = s.sampleLevel ∧ s.hideScl.drawDrive.hideScl = s.drawDrive.hideScl := by
    cases henv : s.inputs.env <;>
      simp [State.sampleLevel_eq, State.hideScl, State.drawDrive, Inputs.nextDrive, Inputs.dropDrive, henv]
  obtain ⟨same_level, same_draw⟩ := draws
  have idem : s.hideScl.hideScl = s.hideScl := by simp [State.hideScl]
  cases m with
  | set l v =>
    cases l with
    | scl => exact congrArg (fun x => x.microSet .scl v) idem
    | sda => exact congrArg (fun x => x.microSet .sda v) idem
  | setShiftBit k => exact congrArg (fun x => x.microSet .sda (s.shift.getLsbD k.val)) idem
  | setAckReq => exact congrArg (fun x => x.microSet .sda (!s.ackReq)) idem
  | delay => exact congrArg State.microDelay idem
  | sampleAck =>
    change ((s.hideScl.drawDrive.hideScl.record (.sample s.hideScl.sampleLevel)).advanceMpc).putAckBit s.hideScl.sampleLevel =
      ((s.drawDrive.hideScl.record (.sample s.sampleLevel)).advanceMpc).putAckBit s.sampleLevel
    rw [same_draw, same_level]
  | sampleBit k =>
    change ((s.hideScl.drawDrive.hideScl.record (.sample s.hideScl.sampleLevel)).advanceMpc).putShiftBit k s.hideScl.sampleLevel =
      ((s.drawDrive.hideScl.record (.sample s.sampleLevel)).advanceMpc).putShiftBit k s.sampleLevel
    rw [same_draw, same_level]

/-- A completion reads no drive. -/
theorem State.hideScl_afterMicro (s : State) (o : Op) :
    s.hideScl.afterMicro (tableOf o) (statusOf o) (dataOf o) = (s.afterMicro (tableOf o) (statusOf o) (dataOf o)).hideScl := by
  rw [State.afterMicro, State.afterMicro, apply_ite State.hideScl]
  cases o <;> rfl

theorem State.hideScl_accepted (s : State) (i : Instr) : s.hideScl.accepted i = (s.accepted i).hideScl := by
  cases i <;> rfl

/-- Settles O27: the two states are in the same row of the same command, and each operation of the step commutes with forgetting the
drive of SCL. -/
theorem sclIsNeverRead : Obligations.SclIsNeverRead := by
  intro i s s' t hsame h
  have same_guard : s.guard = s'.guard := (congrArg State.guard hsame :)
  have same_life : s.life = s'.life := (congrArg State.life hsame :)
  have same_op : s.op = s'.op := (congrArg State.op hsame :)
  have same_mpc : s.mpc = s'.mpc := (congrArg State.mpc hsame :)
  have same_inFlight : s.inFlight = s'.inFlight := (congrArg State.inFlight hsame :)
  rcases exec_cases h with ⟨hguard, rfl, row, hrow, rfl⟩ | ⟨hguard, hother, rfl⟩ | ⟨hguard, hlife, rfl⟩
  · rw [same_guard] at hguard
    rw [same_inFlight]
    rw [same_op, same_mpc] at hrow
    refine ⟨_, exec_of_row hguard hrow, ?_⟩
    rw [same_op, ← State.hideScl_afterMicro, ← State.hideScl_afterMicro, ← State.hideScl_perform s, ← State.hideScl_perform s', hsame]
  · rw [same_guard] at hguard
    rw [same_inFlight] at hother
    exact ⟨s', exec_of_other hguard hother, hsame.symm⟩
  · rw [same_guard] at hguard
    rw [same_life] at hlife
    refine ⟨s'.accepted i, exec_of_ready i hguard hlife, ?_⟩
    rw [← State.accepted, ← State.hideScl_accepted, ← State.hideScl_accepted, hsame]

end Sys2Proof.Machine
end

section
/-! PROOFS. The drivers follow the tables (R25, R123, R130, R134): the line invariant, and what it says of the samples. -/

namespace Sys2Proof.Machine

variable {s t : State} {row : MicroRow}

/-! ### The level a micro-operation sets a line to -/

/-- The level the micro-operation sets line `l` to, if it sets it: one row's part of `lastSet`. -/
def MicroOp.levelSet (shift : Byte) (ackReq : Bool) (l : Line) : MicroOp → Option Bool
  | .set l' v => if l' = l then some v else none
  | .setShiftBit k => if l = .sda then some (shift.getLsbD k.val) else none
  | .setAckReq => if l = .sda then some (!ackReq) else none
  | .delay => none
  | .sampleAck => none
  | .sampleBit _ => none

theorem lastSet_append_row (shift : Byte) (ackReq : Bool) (l : Line) (rows : List MicroRow) (r : MicroRow) :
    lastSet shift ackReq l (rows ++ [r]) = (MicroOp.levelSet shift ackReq l r.op).or (lastSet shift ackReq l rows) := by
  unfold lastSet
  rw [List.foldl_append, List.foldl_cons, List.foldl_nil]
  cases r.op with
  | set l' v => by_cases hl : l' = l <;> simp [MicroOp.levelSet, hl]
  | setShiftBit k | setAckReq => by_cases hl : l = .sda <;> simp [MicroOp.levelSet, hl]
  | delay | sampleAck | sampleBit k => rfl

theorem State.driver_perform_levelSet (s : State) (m : MicroOp) (l : Line) :
    (s.perform m).driver l = (MicroOp.levelSet s.shift s.ackReq l m).getD (s.driver l) := by
  rw [State.driver_perform]
  cases m with
  | set l' v => by_cases hl : l' = l <;> simp [MicroOp.levelSet, hl]
  | setShiftBit k | setAckReq => by_cases hl : l = .sda <;> simp [MicroOp.levelSet, hl]
  | delay | sampleAck | sampleBit k => rfl

/-- Rows that put no bit of SHIFT on SDA set the lines the same whatever SHIFT holds. -/
theorem lastSet_shift_irrelevant {rows : List MicroRow} (hrows : ∀ r ∈ rows, ∀ k, r.op ≠ .setShiftBit k) (b b' : Byte) (ackReq : Bool)
    (l : Line) : lastSet b ackReq l rows = lastSet b' ackReq l rows := by
  induction rows using List.reverseRecOn with
  | nil => rfl
  | append_singleton rows r ih =>
    obtain ⟨hinit, hlast⟩ := List.forall_mem_append.mp hrows
    have same_level : MicroOp.levelSet b ackReq l r.op = MicroOp.levelSet b' ackReq l r.op := by
      cases hm : r.op with
      | setShiftBit k => exact absurd hm (hlast r (List.mem_singleton_self r) k)
      | _ => rfl
    rw [lastSet_append_row, lastSet_append_row, same_level, ih hinit]

theorem recvTable_no_setShiftBit : ∀ r ∈ recvTable, ∀ k, r.op ≠ .setShiftBit k := by
  decide

/-- A sampled bit goes to SHIFT in a RECV only, whose rows do not put SHIFT on SDA. -/
theorem lastSet_perform_shift (hrow : (tableOf s.op)[s.mpc.toNat]? = some row) (l : Line) (n : Nat) :
    lastSet (s.perform row.op).shift s.ackReq l ((tableOf s.op).take n) = lastSet s.shift s.ackReq l ((tableOf s.op).take n) := by
  by_cases hop : s.op = .recv
  · rw [hop]
    exact lastSet_shift_irrelevant (fun r hr => recvTable_no_setShiftBit r (List.mem_of_mem_take hr)) _ _ _ _
  · have shift_kept := afterMicro_shift_of_row hrow hop
    rw [State.afterMicro_shift] at shift_kept
    rw [shift_kept]

/-! ### The line invariant, step by step -/

/-- While a command is in flight: each line its rows so far have set holds the level the last of them gave it. -/
def State.LinesFollow (s : State) (n : Nat) : Prop :=
  ∀ l v, lastSet s.shift s.ackReq l ((tableOf s.op).take n) = some v → s.driver l = v

theorem State.linesFollow_perform (hrow : (tableOf s.op)[s.mpc.toNat]? = some row) (hlines : s.LinesFollow s.mpc.toNat) :
    (s.perform row.op).LinesFollow (s.mpc.toNat + 1) := by
  intro l v hset
  rw [State.perform_op, State.perform_ackReq, lastSet_perform_shift hrow, List.take_add_one, hrow, Option.toList_some, lastSet_append_row]
    at hset
  rw [State.driver_perform_levelSet]
  cases hlevel : MicroOp.levelSet s.shift s.ackReq l row.op with
  | none =>
    rw [hlevel, Option.none_or] at hset
    exact hlines l v hset
  | some u =>
    rw [hlevel, Option.some_or] at hset
    exact Option.some.inj hset

/-- What a whole table leaves the lines at: STOP releases SDA last, the others drive SCL low last (R123). -/
theorem lastSet_tableOf (shift : Byte) (ackReq : Bool) (o : Op) :
    lastSet shift ackReq .scl (tableOf o) = some false ∨ lastSet shift ackReq .sda (tableOf o) = some true := by
  cases o with
  | stop => exact .inr rfl
  | start | send | recv => exact .inl rfl

/-- Idle lines are never 1/0 (R123). -/
theorem State.idle_lines_of_linesFollow (hlines : s.LinesFollow (lengthOf s.op)) : ¬ (s.sclOut = true ∧ s.sdaOut = false) := by
  rintro ⟨hscl, hsda⟩
  unfold State.LinesFollow at hlines
  rw [lengthOf, List.take_length] at hlines
  rcases lastSet_tableOf s.shift s.ackReq s.op with h | h
  · have scl_low : s.sclOut = false := hlines .scl false h
    simp [hscl] at scl_low
  · have sda_released : s.sdaOut = true := hlines .sda true h
    simp [hsda] at sda_released

theorem State.lineInv_of_free (hguard : s.guard = false) (hlines : ¬ (s.sclOut = true ∧ s.sdaOut = false)) : s.LineInv :=
  ⟨fun hheld => by simp [hguard] at hheld, fun _ => hlines⟩

theorem State.lineInv_afterMicro (hinv : s.LineInv) (hguard : s.guard = true) (hrow : (tableOf s.op)[s.mpc.toNat]? = some row) :
    ((s.perform row.op).afterMicro (tableOf s.op) (statusOf s.op) (dataOf s.op)).LineInv := by
  obtain ⟨hnext, hlt⟩ := mpc_succ hrow
  have hlines := State.linesFollow_perform hrow (hinv.1 hguard)
  rcases Nat.lt_or_eq_of_le (show s.mpc.toNat + 1 ≤ lengthOf s.op from hlt) with hmore | hlast
  · rw [afterMicro_of_lt hrow hmore]
    refine ⟨fun _ l v hset => ?_, fun hfree => by simp [hguard] at hfree⟩
    rw [State.putFsm_mpc, State.perform_mpc, hnext] at hset
    exact (State.driver_putFsm ..).trans (hlines l v hset)
  · rw [afterMicro_of_last hrow hlast]
    rw [hlast, ← State.perform_op] at hlines
    exact State.lineInv_of_free rfl (State.idle_lines_of_linesFollow hlines)

theorem State.lineInv_accepted (s : State) (i : Instr) : (s.accepted i).LineInv := by
  obtain ⟨hguard, -, hmpc, -⟩ := s.accept_fields i
  rw [← State.accepted] at hguard hmpc
  refine ⟨fun _ l v hset => ?_, fun hfree => by simp [hguard] at hfree⟩
  rw [hmpc] at hset
  cases hset

/-- A host operation leaves the lines alone or releases both. -/
theorem hostStep_lines (h : hostStep s = .next t) :
    (t.sclOut = s.sclOut ∧ t.sdaOut = s.sdaOut) ∨ (t.sclOut = true ∧ t.sdaOut = true) := by
  rcases hostStep_engine h with ⟨-, -, -, -, -, -, -, -, -, hscl, hsda, -⟩ | ⟨_, _, _, -, -, -, -, -, -, -, -, -, -, -, -, -, hscl, hsda, -⟩ |
    ⟨-, -, -, -, -, -, -, -, -, -, hscl, hsda, -⟩
  · exact .inl ⟨hscl, hsda⟩
  · exact .inr ⟨hscl, hsda⟩
  · exact .inr ⟨hscl, hsda⟩

/-- Settles O34: a micro-operation moves the lines and the table's account of them together, an acceptance starts with no line set, and
the host side only releases lines. -/
theorem lineInvariantKeptByStep : Obligations.LineInvariantKeptByStep := by
  intro s t hinv h
  rcases step_cases h with ⟨hguard, row, hrow, rfl⟩ | ⟨-, -, w, i, -, -, rfl⟩ | ⟨hguard, -, w, e, -, -, rfl⟩ | ⟨hguard, -, hhost⟩
  · exact State.lineInv_afterMicro hinv hguard hrow
  · exact s.lineInv_accepted i
  · exact State.lineInv_of_free hguard (hinv.2 hguard)
  · refine State.lineInv_of_free (hostStep_guard_of_free hguard hhost) ?_
    rcases hostStep_lines hhost with ⟨hscl, hsda⟩ | ⟨-, hsda⟩
    · rw [hscl, hsda]
      exact hinv.2 hguard
    · simp [hsda]

/-! ### The samples (R130, R134) -/

/-- Before each of its samples a table has last released SDA. -/
theorem lastSet_at_sampling (hrow : (tableOf s.op)[s.mpc.toNat]? = some row)
    (hsample : row.op = .sampleAck ∨ ∃ k, row.op = .sampleBit k) :
    lastSet s.shift s.ackReq .sda ((tableOf s.op).take s.mpc.toNat) = some true := by
  rcases hsample with hack | ⟨k, hbit⟩
  · obtain ⟨-, sampleAck_iff, -⟩ := row_facts hrow
    obtain ⟨hop, hmpc⟩ := sampleAck_iff.mp hack
    rw [hop, hmpc]
    rfl
  · have released : ∀ n ∈ [3, 8, 13, 18, 23, 28, 33, 38], lastSet s.shift s.ackReq .sda (recvTable.take n) = some true := by
      simp only [List.forall_mem_cons]
      exact ⟨rfl, rfl, rfl, rfl, rfl, rfl, rfl, rfl, List.forall_mem_nil _⟩
    obtain ⟨hop, hmpc⟩ := mpc_of_sampleBit hrow hbit
    rw [hop]
    exact released _ hmpc

/-- Settles O29: the line invariant carries the table's last release of SDA to the driver. -/
theorem samplesAreTheEnvironments : Obligations.SamplesAreTheEnvironments := by
  intro s row hinv hguard hrow hsample
  have hreleased : s.sdaOut = true := hinv.1 hguard .sda true (lastSet_at_sampling hrow hsample)
  exact ⟨hreleased, by rw [State.sampleLevel_eq, hreleased, Bool.true_and]⟩

end Sys2Proof.Machine
end

section
/-! PROOFS. TRANSFER: the payload loop, the retries, the buffer and the number of commands (45_transfer_sequencer.md). -/

namespace Sys2Proof.Machine

variable {s : State} {c t : Call} {st : Status} {d : Byte}

/-! ### The payload loop (R168, R169) -/

theorem Call.command_issueStop {why : StopWhy} (h : c.point = .issueStop why) : c.command = .stop := by
  simp only [Call.command, h]

theorem Call.command_payload_write (hpoint : c.point = .issuePayload) (hdir : c.dir = .write) :
    c.command = .send (Memory.read c.buf c.idx) := by
  simp only [Call.command, hpoint, hdir]

theorem Call.command_payload_read (hpoint : c.point = .issuePayload) (hdir : c.dir = .read) :
    c.command = .recv (decide (c.idx + 1 < c.len)) := by
  simp only [Call.command, hpoint, hdir]

theorem Call.onResponse_payload_write (hpoint : c.point = .issuePayload) (hdir : c.dir = .write) (st : Status) (d : Byte) :
    c.onResponse st d =
      .goes (if st = .busError then { c with st := .busError, point := .issueStop .payloadDone } else c.nextByte) := by
  simp only [Call.onResponse, hpoint, hdir]
  split <;> rfl

theorem Call.onResponse_payload_read (hpoint : c.point = .issuePayload) (hdir : c.dir = .read) (st : Status) (d : Byte) :
    c.onResponse st d = .goes { c with buf := Memory.write c.buf c.idx d }.nextByte := by
  simp only [Call.onResponse, hpoint, hdir]

theorem Call.nextByte_eq (hidx : c.idx < c.len) :
    c.nextByte =
      if c.idx = c.len - 1 then { c with point := .issueStop .payloadDone } else { c with idx := c.idx + 1, point := .check } := by
  by_cases hlast : c.idx = c.len - 1
  · rw [Call.nextByte, if_neg (by omega), if_pos hlast]
  · rw [Call.nextByte, if_pos (by omega), if_neg hlast]

/-- Settles O49: the two directions' responses, and `Call.nextByte_eq` for the byte after. -/
theorem transferPayloadLoop : Obligations.TransferPayloadLoop := by
  refine fun c d hpoint hidx => ⟨fun hdir => ⟨Call.command_payload_write hpoint hdir, Call.onResponse_payload_write hpoint hdir _ d, ?ok⟩,
    fun hdir => ⟨?request, fun st => ?stored⟩⟩
  case ok => rw [Call.onResponse_payload_write hpoint hdir, if_neg (by decide), Call.nextByte_eq hidx]
  case request =>
    have same_test : c.idx + 1 < c.len ↔ c.idx < c.len - 1 := by omega
    rw [Call.command_payload_read hpoint hdir, decide_eq_decide.mpr same_test]
  case stored => rw [Call.onResponse_payload_read hpoint hdir, Call.nextByte_eq (c := { c with buf := Memory.write c.buf c.idx d }) hidx]

/-! ### Retries (R172 to R174) -/

theorem State.callerStep_of_backoff {k : Nat} {x : Caller} (hx : s.callers[k]? = some x) (hcall : x.call = some c)
    (hpoint : c.point = .backoff) :
    s.callerStep k = .next (s.setCaller k { (x.note [.waitUs Config.backoffUs]) with call := some c.afterBackoff }) := by
  simp only [State.callerStep, hx, hcall, State.transferStep, hpoint]

/-- Settles O51: both STOPs end in `Call.attemptFailed`, and a backoff is a step of the caller alone. -/
theorem transferRetries : Obligations.TransferRetries := by
  refine fun c st d => ⟨fun hpoint => ?payload, fun hpoint => ?address, fun hpoint s k x hx hcall => ?backoff⟩
  case payload =>
    rw [Call.onResponse_payloadDone hpoint]
    refine ⟨Call.command_issueStop hpoint, fun hok => if_pos hok, fun hfail hleft => ?_, fun hfail hlast => ⟨c.buf, ?_⟩⟩
    · rw [if_neg hfail, Call.attemptFailed_of_lt _ hleft]
    · rw [if_neg hfail, Call.attemptFailed_of_le _ hlast]
  case address =>
    rw [Call.onResponse_addrNack hpoint]
    exact ⟨Call.command_issueStop hpoint, Call.attemptFailed_of_lt _, fun hlast => ⟨c.buf, Call.attemptFailed_of_le _ hlast⟩⟩
  case backoff =>
    exact ⟨_, _, State.callerStep_of_backoff hx hcall hpoint, State.setCaller_getElem?_self hx _, s.setCaller_sameEngine k _, rfl, rfl, rfl⟩

/-! ### Where a response leaves a TRANSFER that goes on (R164) -/

/-- The states a TRANSFER `c` can go on from after a response with data `d`. -/
inductive Call.GoesOn (c : Call) (d : Byte) : Call → Prop
  | unasked (hpoint : c.point.issues = false) : c.GoesOn d c
  | started (hpoint : c.point = .issueStart) : c.GoesOn d { c with point := .issueAddr }
  | addrNacked (hpoint : c.point = .issueAddr) : c.GoesOn d { c with point := .issueStop .addrNack }
  | addrAcked (hpoint : c.point = .issueAddr) : c.GoesOn d { c with st := .ok, idx := 0, point := .check }
  | stored (hpoint : c.point = .issuePayload) (hdir : c.dir = .read) : c.GoesOn d { c with buf := Memory.write c.buf c.idx d }.nextByte
  | sent (hpoint : c.point = .issuePayload) (hdir : c.dir = .write) : c.GoesOn d c.nextByte
  | nacked (hpoint : c.point = .issuePayload) (hdir : c.dir = .write) :
      c.GoesOn d { c with st := .busError, point := .issueStop .payloadDone }
  | failed {why : StopWhy} (hpoint : c.point = .issueStop why) (failure : Status) (hleft : c.attempt < Config.retryBudget) :
      c.GoesOn d { c with last := failure, point := .backoff }

theorem Call.goesOn_of_attemptFailed {why : StopWhy} (hpoint : c.point = .issueStop why) {failure : Status}
    (h : c.attemptFailed failure = .goes t) : c.GoesOn d t := by
  rcases Nat.lt_or_ge c.attempt Config.retryBudget with hleft | hlast
  · rw [Call.attemptFailed_of_lt failure hleft] at h
    obtain rfl := CallNext.goes.inj h
    exact .failed hpoint failure hleft
  · rw [Call.attemptFailed_of_le failure hlast] at h
    cases h

theorem Call.goesOn_of_onResponse (h : c.onResponse st d = .goes t) : c.GoesOn d t := by
  cases hpoint : c.point with
  | readT0 | check | backoff =>
    simp only [Call.onResponse, hpoint] at h
    obtain rfl := CallNext.goes.inj h
    exact .unasked (by rw [hpoint]; rfl)
  | issueStart =>
    simp only [Call.onResponse, hpoint] at h
    obtain rfl := CallNext.goes.inj h
    exact .started hpoint
  | issueAddr =>
    rw [Call.onResponse_issueAddr hpoint] at h
    obtain rfl := CallNext.goes.inj h
    split
    · exact .addrNacked hpoint
    · exact .addrAcked hpoint
  | issuePayload =>
    cases hdir : c.dir with
    | read =>
      rw [Call.onResponse_payload_read hpoint hdir] at h
      obtain rfl := CallNext.goes.inj h
      exact .stored hpoint hdir
    | write =>
      rw [Call.onResponse_payload_write hpoint hdir] at h
      obtain rfl := CallNext.goes.inj h
      split
      · exact .nacked hpoint hdir
      · exact .sent hpoint hdir
  | issueStop why =>
    cases why with
    | addrNack =>
      rw [Call.onResponse_addrNack hpoint] at h
      exact Call.goesOn_of_attemptFailed hpoint h
    | payloadDone =>
      rw [Call.onResponse_payloadDone hpoint] at h
      split at h
      · cases h
      · exact Call.goesOn_of_attemptFailed hpoint h
    | deadline =>
      rw [Call.onResponse_deadline hpoint] at h
      cases h

/-! ### A TRANSFER in progress stays well formed (R51, R160, R161, R164, R172) -/

/-- `Call.wf`, field by field. -/
structure Call.WellFormed (p : Params) (c : Call) : Prop where
  attempt_pos : 1 ≤ c.attempt
  attempt_le : c.attempt ≤ Config.retryBudget
  st_eq : c.st = .ok ∨ c.st = .busError
  idx_lt : c.idx < c.len
  backoff_left : c.point = .backoff → c.attempt < Config.retryBudget
  len_le : c.len ≤ p.maxLen
  buf_wf : Memory.wf c.buf = true
  buf_lt : ∀ x ∈ c.buf, x.1 < c.len

theorem Call.wf_iff {p : Params} : Call.wf p c = true ↔ c.WellFormed p := by
  simp only [Call.wf, Bool.and_eq_true, Bool.or_eq_true, decide_eq_true_eq, List.all_eq_true]
  constructor
  · rintro ⟨⟨⟨⟨⟨⟨⟨h1, h2⟩, h3⟩, h4⟩, h5⟩, h6⟩, h7⟩, h8⟩
    exact ⟨h1, h2, h3, h4, fun h => h5.resolve_left (not_not_intro h), h6, h7, h8⟩
  · rintro ⟨h1, h2, h3, h4, h5, h6, h7, h8⟩
    exact ⟨⟨⟨⟨⟨⟨⟨h1, h2⟩, h3⟩, h4⟩, or_iff_not_imp_left.mpr fun h => h5 (not_not.mp h)⟩, h6⟩, h7⟩, h8⟩

section
variable {p : Params} (hwf : c.WellFormed p)
include hwf

theorem Call.WellFormed.nextByte : c.nextByte.WellFormed p := by
  unfold Call.nextByte
  split
  case isTrue hmore => exact { hwf with idx_lt := hmore, backoff_left := nofun }
  case isFalse => exact { hwf with backoff_left := nofun }

theorem Call.WellFormed.goesOn (h : c.GoesOn d t) : t.WellFormed p := by
  cases h with
  | unasked => exact hwf
  | started | addrNacked => exact { hwf with backoff_left := nofun }
  | addrAcked => exact { hwf with st_eq := .inl rfl, idx_lt := Nat.zero_lt_of_lt hwf.idx_lt, backoff_left := nofun }
  | sent => exact hwf.nextByte
  | nacked => exact { hwf with st_eq := .inr rfl, backoff_left := nofun }
  | failed hpoint failure hleft => exact { hwf with backoff_left := fun _ => hleft }
  | stored hpoint =>
    have hstored : Call.WellFormed p { c with buf := Memory.write c.buf c.idx d } :=
      { hwf with
        buf_wf := Memory.write_wf hwf.buf_wf c.idx d
        buf_lt := Memory.write_bounded hwf.buf_lt hwf.idx_lt d }
    exact hstored.nextByte

theorem Call.WellFormed.onNow (now : Nat) : (c.onNow now).WellFormed p := by
  cases hpoint : c.point with
  | readT0 =>
    rw [Call.onNow_readT0 hpoint]
    exact { hwf with backoff_left := nofun }
  | check =>
    rw [Call.onNow_check hpoint]
    refine { hwf with backoff_left := fun h => ?_ }
    simp only at h
    split at h <;> cases h
  | issueStart | issueAddr | issuePayload | issueStop | backoff => simpa only [Call.onNow, hpoint] using hwf

theorem Call.WellFormed.afterBackoff (hpoint : c.point = .backoff) : c.afterBackoff.WellFormed p :=
  { hwf with attempt_pos := Nat.le_add_left .., attempt_le := hwf.backoff_left hpoint, backoff_left := nofun }

end

theorem Call.begin_wellFormed {p : Params} {d : Device} {r : Request} (hr : Request.wf p r = true) (hlen : r.len ≠ 0) :
    (Call.begin d r).WellFormed p := by
  simp only [Request.wf, Bool.and_eq_true, decide_eq_true_eq, List.all_eq_true] at hr
  obtain ⟨⟨hbuf, hlisted⟩, hmax⟩ := hr
  exact ⟨Nat.le_refl 1, show 1 ≤ Config.retryBudget by decide, .inl rfl, Nat.pos_of_ne_zero hlen, nofun, hmax, hbuf, hlisted⟩

/-! ### The buffer (R51, R165) -/

theorem Call.nextByte_buf (c : Call) : c.nextByte.buf = c.buf ∧ c.nextByte.len = c.len := by
  unfold Call.nextByte
  split <;> exact ⟨rfl, rfl⟩

/-- What a response makes of the buffer: a read's payload byte is stored, and nothing else is written. -/
theorem Call.GoesOn.buf_eq (h : c.GoesOn d t) :
    t.len = c.len ∧ t.buf = if c.point = .issuePayload ∧ c.dir = .read then Memory.write c.buf c.idx d else c.buf := by
  cases h with
  | unasked hpoint =>
    have : c.point ≠ .issuePayload := fun h => by rw [h] at hpoint; cases hpoint
    simp [this]
  | started hpoint | addrNacked hpoint | addrAcked hpoint | failed hpoint => simp [hpoint]
  | stored hpoint hdir => simp [hpoint, hdir, Call.nextByte_buf]
  | sent hpoint hdir => simp [hdir, Call.nextByte_buf]
  | nacked hpoint hdir => simp [hdir]

theorem Call.WellFormed.indexOk {p : Params} (hwf : c.WellFormed p) : c.indexOk = true := by
  unfold Call.indexOk
  split
  · exact decide_eq_true hwf.idx_lt
  · rfl

/-- Settles O52: a response writes at most `buf[I]`, and the call it leaves is well formed again. -/
theorem transferBufferAccesses : Obligations.TransferBufferAccesses := by
  intro p c t st d hwf h
  have hwf : c.WellFormed p := Call.wf_iff.mp hwf
  have hgoes : c.GoesOn d t := Call.goesOn_of_onResponse h
  obtain ⟨hlen, hbuf⟩ := hgoes.buf_eq
  refine ⟨hwf.indexOk, (hwf.goesOn hgoes).idx_lt, hlen, fun hdir => ?write, fun hpoint => ?elsewhere, fun hdir hpoint => ?stored,
    fun i hi => ?others⟩
  case write => rw [hbuf, if_neg (by simp [hdir])]
  case elsewhere => rw [hbuf, if_neg (by simp [hpoint])]
  case stored => rw [hbuf, if_pos ⟨hpoint, hdir⟩, Memory.read_write_same hwf.buf_wf]
  case others =>
    rw [hbuf]
    split
    · exact Memory.read_write_other hwf.buf_wf hi d
    · rfl

/-! ### The commands a TRANSFER can still issue (R180) -/

theorem Call.attemptCommandsLeft_nextByte (hpoint : c.point = .issuePayload) (hidx : c.idx < c.len) :
    c.nextByte.attemptCommandsLeft < c.attemptCommandsLeft := by
  rw [Call.nextByte_eq hidx]
  split <;> simp only [Call.attemptCommandsLeft, hpoint] <;> omega

theorem Call.nextByte_attempt (c : Call) : c.nextByte.attempt = c.attempt := by
  unfold Call.nextByte
  split <;> rfl

/-- A command issued is one fewer left in the attempt. -/
theorem Call.GoesOn.attemptCommandsLeft_lt (h : c.GoesOn d t) (hissues : c.point.issues = true) (hidx : c.idx < c.len) :
    t.attemptCommandsLeft < c.attemptCommandsLeft ∧ t.attempt = c.attempt ∧ t.len = c.len := by
  obtain ⟨hlen, -⟩ := h.buf_eq
  suffices hleft : t.attemptCommandsLeft < c.attemptCommandsLeft ∧ t.attempt = c.attempt from ⟨hleft.1, hleft.2, hlen⟩
  cases h with
  | unasked hpoint => rw [hissues] at hpoint; cases hpoint
  | started hpoint | addrNacked hpoint | addrAcked hpoint | nacked hpoint =>
    refine ⟨?_, rfl⟩
    simp only [Call.attemptCommandsLeft, hpoint]
    omega
  | failed hpoint => exact ⟨by simp only [Call.attemptCommandsLeft, hpoint]; omega, rfl⟩
  | stored hpoint =>
    have h := Call.attemptCommandsLeft_nextByte (c := { c with buf := Memory.write c.buf c.idx d }) hpoint hidx
    exact ⟨h, Call.nextByte_attempt _⟩
  | sent hpoint => exact ⟨Call.attemptCommandsLeft_nextByte hpoint hidx, Call.nextByte_attempt _⟩

theorem Call.commandsLeft_onNow (c : Call) (now : Nat) : (c.onNow now).commandsLeft ≤ c.commandsLeft := by
  cases hpoint : c.point with
  | readT0 => simp [Call.onNow_readT0 hpoint, Call.commandsLeft, Call.attemptCommandsLeft, hpoint]
  | check =>
    rw [Call.onNow_check hpoint]
    split <;> simp only [Call.commandsLeft, Call.attemptCommandsLeft, hpoint] <;> omega
  | issueStart | issueAddr | issuePayload | issueStop | backoff => simp only [Call.onNow, hpoint, Nat.le_refl]

/-- The attempt that a backoff begins was counted among the attempts left. -/
theorem Call.commandsLeft_afterBackoff (hpoint : c.point = .backoff) (hleft : c.attempt < Config.retryBudget) :
    c.afterBackoff.commandsLeft = c.commandsLeft := by
  obtain ⟨n, hn⟩ : ∃ n, Config.retryBudget - c.attempt = n + 1 := ⟨Config.retryBudget - c.attempt - 1, by omega⟩
  have hn' : Config.retryBudget - (c.attempt + 1) = n := by omega
  simp only [Call.afterBackoff, Call.commandsLeft, Call.attemptCommandsLeft, hpoint, hn, hn']
  ring

/-- Settles O53: the attempt's own count falls with each response, and an attempt that follows was counted before. -/
theorem transferCommandsAreBounded : Obligations.TransferCommandsAreBounded := by
  refine ⟨fun d r => ?begins, fun p c t st d hwf hissues h => ?response, fun p c now hwf => ⟨?now, fun hpoint => ?backoff⟩⟩
  case begins =>
    simp only [Call.begin, Call.commandsLeft, Call.attemptCommandsLeft]
    ring
  case response =>
    obtain ⟨hleft, hattempt, hlen⟩ :=
      (Call.goesOn_of_onResponse h).attemptCommandsLeft_lt hissues (Call.wf_iff.mp hwf).idx_lt
    rw [Call.commandsLeft, Call.commandsLeft, hattempt, hlen]
    exact Nat.add_lt_add_right hleft _
  case now => exact c.commandsLeft_onNow now
  case backoff => exact (Call.commandsLeft_afterBackoff hpoint ((Call.wf_iff.mp hwf).backoff_left hpoint)).le

end Sys2Proof.Machine
end

section
/-! PROOFS. The whole machine: what a step can do to the callers, and the invariants that every step keeps (10_state.md,
20_memory.md section 1, 60_exceptions.md section 7). -/

namespace Sys2Proof.Machine

variable {s t : State} {p : Params} {st : Status} {d : Byte} {life : Life}

/-! ### What a host step can make of a caller -/

/-- What a host step makes of the caller `c` that moves: `st` and `d` are the response registers and `life` is LIFE after the step. -/
inductive Caller.Move (p : Params) (st : Status) (d : Byte) (life : Life) (c : Caller) : Caller → Prop
  | response {c' : Caller} (h : c.onResponse st d = .next c') : c.Move p st d life c'
  | reading {call : Call} (hcall : c.call = some call) (elapsed : Nat) :
      c.Move p st d life { (c.note [.now (c.clock + elapsed)]) with
        clock := c.clock + elapsed, call := some (call.onNow (c.clock + elapsed)) }
  | backoff {call : Call} (hcall : c.call = some call) (hpoint : call.point = .backoff) :
      c.Move p st d life { (c.note [.waitUs Config.backoffUs]) with call := some call.afterBackoff }
  | issued (reads : List HostEvent) (w : Cmd) : c.Move p st d life ((c.note reads).note [.issued w])
  | initReturned (st' : Status) : c.Move p st d life (c.finish.note [.initReturned st'])
  | teardownChecked (hlife : life = .configured) : c.Move p st d life { c with tearingDown := true }
  | teardownReturned (st' : Status) : c.Move p st d life (({ c with tearingDown := false } : Caller).finish.note [.teardownReturned st'])
  | transferBegun {bus : Bool} {dev : Option Device} {req : Option Request} {rest : List HostOp} {dv : Device} {r : Request}
      (hpending : c.pending = .transfer bus dev req :: rest) (hvalid : validate p bus dev req = .valid dv r) :
      c.Move p st d life { c.finish with call := some (Call.begin dv r) }
  | transferReturned (buf : Memory) : c.Move p st d life (c.finish.note [.transferReturned .invalidArgument buf])

theorem State.init_callers {a : Option (Nat × Nat × Nat)} (h : s.init a = .next (t, st)) : t.callers = s.callers := by
  obtain ⟨-, ⟨rfl, -⟩ | ⟨rfl, -⟩ | ⟨scl, sda, rate, -, -, -, -, -, rfl, -⟩⟩ := State.init_cases h <;> rfl

theorem State.teardown_callers (h : s.teardown = .next (t, st)) : t.callers = s.callers := by
  obtain ⟨-, -, rfl⟩ := State.teardown_cases h
  rfl

/-- A caller's step changes that caller at most, by one of its moves. -/
theorem State.callerStep_callers {k : Nat} (h : s.callerStep k = .next t) :
    t.callers = s.callers
      ∨ ∃ c c', s.callers[k]? = some c ∧ c.Move s.params s.rspStatus s.rspData t.life c' ∧ t.callers = s.callers.set k c' := by
  rcases State.callerStep_cases h with rfl | ⟨c, hc, ⟨call, hcall, h⟩ | ⟨-, o, rest, hpending, ⟨w, -, rfl⟩ | ⟨a, t0, st, -, hinit, rfl⟩ |
    ⟨-, -, hlife, rfl⟩ | ⟨t0, st, -, -, hteardown, rfl⟩ | ⟨bus, dev, req, rfl, h⟩⟩⟩
  · exact .inl rfl
  · rcases State.transferStep_cases h with ⟨-, rfl⟩ | ⟨hpoint, rfl⟩ | ⟨-, -, rfl⟩
    · exact .inr ⟨c, _, hc, .reading hcall _, rfl⟩
    · exact .inr ⟨c, _, hc, .backoff hcall hpoint, rfl⟩
    · exact .inr ⟨c, _, hc, .issued _ _, rfl⟩
  · exact .inr ⟨c, _, hc, .issued [] w, by simp [Caller.note]⟩
  · exact .inr ⟨c, _, hc, .initReturned st, by rw [State.setCaller_callers, State.init_callers hinit]⟩
  · exact .inr ⟨c, _, hc, .teardownChecked hlife, rfl⟩
  · exact .inr ⟨c, _, hc, .teardownReturned st, by rw [State.setCaller_callers, State.teardown_callers hteardown]⟩
  · rcases State.beginTransfer_cases h with ⟨dv, r, hvalid, rfl⟩ | ⟨-, rfl⟩
    · exact .inr ⟨c, _, hc, .transferBegun hpending hvalid, rfl⟩
    · exact .inr ⟨c, _, hc, .transferReturned _, rfl⟩

/-- A host step changes one caller at most, by one of its moves. -/
theorem hostStep_callers (h : hostStep s = .next t) :
    t.callers = s.callers
      ∨ ∃ k c c', s.callers[k]? = some c ∧ c.Move s.params s.rspStatus s.rspData t.life c' ∧ t.callers = s.callers.set k c' := by
  rcases hostStep_cases h with ⟨k, -, -, -, -, hcollect⟩ | ⟨k, s0, -, hs0, hcaller⟩ | rfl
  · rcases State.collect_cases hcollect with rfl | ⟨c, c', hc, hresponse, rfl⟩
    · exact .inl rfl
    · exact .inr ⟨k, c, c', hc, .response hresponse, rfl⟩
  · rcases hs0 with rfl | rfl <;> exact (State.callerStep_callers hcaller).imp_right fun hmove => ⟨k, hmove⟩
  · exact .inl rfl

/-- A step of the engine changes no caller. -/
theorem step_callers (h : step s = .next t) : t.callers = s.callers ∨ hostStep s = .next t := by
  rcases step_cases h with ⟨-, row, -, rfl⟩ | ⟨-, -, w, i, -, -, rfl⟩ | ⟨-, -, w, e, -, -, rfl⟩ | ⟨-, -, hhost⟩
  · exact .inl (s.sameHost_afterMicro row).1
  · exact .inl (s.sameHost_accepted i).1
  · exact .inl rfl
  · exact .inr hhost

/-! ### NOW() is monotonic (R220) -/

/-- From `c` to `c'` the caller's clock does not go back, and a reading is where it then stands. -/
def Caller.ClockAdvances (c c' : Caller) : Prop :=
  c.clock ≤ c'.clock ∧ ∀ n, c'.history = c.history ++ [.now n] → c.clock ≤ n ∧ c'.clock = n

theorem Caller.clockAdvances_of_no_reading {c c' : Caller} (es : List HostEvent) (hclock : c'.clock = c.clock)
    (hhistory : c'.history = c.history ++ es) (hes : ∀ n, es ≠ [.now n]) : c.ClockAdvances c' :=
  ⟨hclock.ge, fun n h => absurd (List.append_cancel_left (hhistory.symm.trans h)) (hes n)⟩

theorem Caller.clockAdvances_refl (c : Caller) : c.ClockAdvances c :=
  Caller.clockAdvances_of_no_reading [] rfl (List.append_nil _).symm (by simp)

theorem Caller.Move.clockAdvances {c c' : Caller} (h : c.Move p st d life c') : c.ClockAdvances c' := by
  cases h with
  | response h =>
    rcases Caller.onResponse_cases h with ⟨-, rfl⟩ | ⟨call, call', -, -, -, rfl⟩ | ⟨call, r, buf, -, -, -, rfl⟩
    all_goals exact Caller.clockAdvances_of_no_reading _ rfl rfl (by simp)
  | reading hcall elapsed =>
    refine ⟨Nat.le_add_right .., fun n h => ?_⟩
    obtain rfl : c.clock + elapsed = n := by simpa [Caller.note] using h
    exact ⟨Nat.le_add_right .., rfl⟩
  | issued reads w =>
    exact Caller.clockAdvances_of_no_reading (reads ++ [.issued w]) rfl (by simp [Caller.note]) (by simp [List.append_eq_singleton_iff])
  | teardownChecked => exact Caller.clockAdvances_of_no_reading [] rfl (List.append_nil _).symm (by simp)
  | transferBegun => exact Caller.clockAdvances_of_no_reading [] rfl (List.append_nil _).symm (by simp)
  | backoff | initReturned | teardownReturned | transferReturned => exact Caller.clockAdvances_of_no_reading _ rfl rfl (by simp)

/-- Settles O55: only a caller's own move changes it, and of the moves one reads NOW(), at or past the clock. -/
theorem nowIsMonotonic : Obligations.NowIsMonotonic := by
  intro s t k c h hc
  suffices hadvances : ∃ c', t.callers[k]? = some c' ∧ c.ClockAdvances c' from hadvances
  have stays (hkept : t.callers[k]? = s.callers[k]?) : ∃ c', t.callers[k]? = some c' ∧ c.ClockAdvances c' :=
    ⟨c, hkept.trans hc, c.clockAdvances_refl⟩
  rcases step_callers h with hkept | hhost
  · exact stays (by rw [hkept])
  rcases hostStep_callers hhost with hkept | ⟨j, b, b', hb, hmove, hset⟩
  · exact stays (by rw [hkept])
  by_cases hjk : j = k
  · subst hjk
    obtain rfl := Option.some.inj (hb.symm.trans hc)
    exact ⟨b', by rw [hset, List.getElem?_set_self (List.getElem?_eq_some_iff.mp hb).1], hmove.clockAdvances⟩
  · exact stays (by rw [hset, List.getElem?_set_ne hjk])

/-! ### The callers' part of the invariant (R51, R160, R220, R245) -/

/-- One caller's part of `State.CallersInv`. -/
def Caller.Ok (p : Params) (life : Life) (c : Caller) : Prop :=
  (∀ o ∈ c.todo ++ c.again, HostOp.wf p o = true) ∧ (∀ call, c.call = some call → Call.wf p call = true ∧ call.t0 ≤ c.clock)
    ∧ (c.tearingDown = true → life ≠ .unconfigured)

theorem State.callersInv_iff : s.CallersInv ↔ ∀ c ∈ s.callers, c.Ok s.params s.life := Iff.rfl

theorem Call.onNow_t0_le {c : Call} {clock now : Nat} (h : c.t0 ≤ clock) (hnow : clock ≤ now) : (c.onNow now).t0 ≤ now := by
  cases hpoint : c.point with
  | readT0 =>
    rw [Call.onNow_readT0 hpoint]
  | check =>
    rw [Call.onNow_check hpoint]
    exact h.trans hnow
  | issueStart | issueAddr | issuePayload | issueStop | backoff =>
    simp only [Call.onNow, hpoint]
    exact h.trans hnow

theorem Call.GoesOn.t0_eq {c c' : Call} (h : c.GoesOn d c') : c'.t0 = c.t0 := by
  have nextByte_t0 (x : Call) : x.nextByte.t0 = x.t0 := by
    unfold Call.nextByte
    split <;> rfl
  cases h with
  | stored | sent => exact nextByte_t0 _
  | unasked | started | addrNacked | addrAcked | nacked | failed => rfl

/-- A caller's move keeps it well formed, if LIFE does not go back to UNCONFIGURED. -/
theorem Caller.Move.ok {life' : Life} {c c' : Caller} (h : c.Move p st d life' c') (hok : c.Ok p life)
    (hlife : life ≠ .unconfigured → life' ≠ .unconfigured) : c'.Ok p life' := by
  obtain ⟨hops, hcall, htearing⟩ := hok
  have htearing' : c.tearingDown = true → life' ≠ .unconfigured := hlife ∘ htearing
  have hops' : ∀ o ∈ c.finish.todo ++ c.finish.again, HostOp.wf p o = true := fun o ho => hops o (Caller.mem_of_mem_finish ho)
  cases h with
  | response h =>
    rcases Caller.onResponse_cases h with ⟨-, rfl⟩ | ⟨call, call', hc, -, hgoes, rfl⟩ | ⟨call, r, buf, -, -, -, rfl⟩
    · exact ⟨hops', hcall, htearing'⟩
    · obtain ⟨hwf, ht0⟩ := hcall call hc
      have hgoes : call.GoesOn d call' := Call.goesOn_of_onResponse hgoes
      refine ⟨hops, fun x hx => ?_, htearing'⟩
      obtain rfl := Option.some.inj hx
      exact ⟨Call.wf_iff.mpr ((Call.wf_iff.mp hwf).goesOn hgoes), hgoes.t0_eq.trans_le ht0⟩
    · exact ⟨hops, nofun, htearing'⟩
  | reading hc elapsed =>
    obtain ⟨hwf, ht0⟩ := hcall _ hc
    refine ⟨hops, fun x hx => ?_, htearing'⟩
    obtain rfl := Option.some.inj hx
    exact ⟨Call.wf_iff.mpr ((Call.wf_iff.mp hwf).onNow _), Call.onNow_t0_le ht0 (Nat.le_add_right ..)⟩
  | backoff hc hpoint =>
    obtain ⟨hwf, ht0⟩ := hcall _ hc
    refine ⟨hops, fun x hx => ?_, htearing'⟩
    obtain rfl := Option.some.inj hx
    exact ⟨Call.wf_iff.mpr ((Call.wf_iff.mp hwf).afterBackoff hpoint), ht0⟩
  | issued => exact ⟨hops, hcall, htearing'⟩
  | initReturned | transferReturned => exact ⟨hops', hcall, htearing'⟩
  | teardownChecked hconfigured => exact ⟨hops, hcall, fun _ => by simp [hconfigured]⟩
  | teardownReturned => exact ⟨hops', hcall, nofun⟩
  | transferBegun hpending hvalid =>
    obtain ⟨-, -, rfl, hlen, -, -⟩ := validate_valid hvalid
    have hrequest := hops _ (Caller.mem_of_mem_pending (hpending ▸ List.mem_cons_self))
    refine ⟨hops', fun x hx => ?_, htearing'⟩
    obtain rfl := Option.some.inj hx
    exact ⟨Call.wf_iff.mpr (Call.begin_wellFormed hrequest hlen), Nat.zero_le _⟩

/-! ### LIFE, CFG and the sizes (R9, R22, R23) -/

theorem State.SameEngine.life_eq (h : s.SameEngine t) : t.life = s.life := h.1
theorem State.SameEngine.trace_eq (h : s.SameEngine t) : t.trace = s.trace := by
  obtain ⟨-, -, -, -, -, -, -, -, -, -, -, -, -, -, -, -, htrace, -⟩ := h
  exact htrace

/-- What one step does to LIFE: nothing, a successful INIT or a TEARDOWN, both with GUARD = 0. -/
theorem step_life (h : step s = .next t) :
    t.life = s.life ∨ (s.guard = false ∧ s.life = .unconfigured ∧ t.life = .configured)
      ∨ (s.guard = false ∧ s.life ≠ .unconfigured ∧ t.life = .tornDown) := by
  rcases step_cases h with ⟨-, row, -, rfl⟩ | ⟨-, -, w, i, -, -, rfl⟩ | ⟨-, -, w, e, -, -, rfl⟩ | ⟨hguard, -, hhost⟩
  · exact .inl (s.samePins_afterMicro row).1
  · exact .inl (s.samePins_accepted i).1
  · exact .inl rfl
  · rcases hostStep_engine hhost with hsame | ⟨_, _, _, hlife, -, -, -, hinit⟩ | ⟨hlife, hteardown⟩
    · exact .inl hsame.life_eq
    · exact .inr (.inl ⟨hguard, hlife, hinit.life_eq⟩)
    · exact .inr (.inr ⟨hguard, hlife, hteardown.life_eq⟩)

theorem step_not_unconfigured (h : step s = .next t) (hlife : s.life ≠ .unconfigured) : t.life ≠ .unconfigured := by
  rcases step_life h with hkept | ⟨-, hun, -⟩ | ⟨-, -, htorn⟩
  · rwa [hkept]
  · exact absurd hun hlife
  · simp [htorn]

theorem step_params (h : step s = .next t) :
    t.params = s.params ∧ t.callers.length = s.callers.length ∧ t.inputs.stream = s.inputs.stream := by
  have of_sameHost (hhost : s.SameHost t) :
      t.params = s.params ∧ t.callers.length = s.callers.length ∧ t.inputs.stream = s.inputs.stream := by
    obtain ⟨hcallers, -, -, hparams, -, -, -, hstream⟩ := hhost
    exact ⟨hparams, congrArg List.length hcallers, hstream⟩
  rcases step_cases h with ⟨-, row, -, rfl⟩ | ⟨-, -, w, i, -, -, rfl⟩ | ⟨-, -, w, e, -, -, rfl⟩ | ⟨-, -, hhost⟩
  · exact of_sameHost (s.sameHost_afterMicro row)
  · exact of_sameHost (s.sameHost_accepted i)
  · exact of_sameHost (s.sameHost_acceptIllegal w)
  · exact ⟨hostStep_params hhost, hostStep_length hhost, hostStep_stream hhost⟩

theorem State.callersInv_of_step (hinv : s.CallersInv) (h : step s = .next t) : t.CallersInv := by
  obtain ⟨hparams, -⟩ := step_params h
  have hlife := step_not_unconfigured h
  rw [State.callersInv_iff] at hinv ⊢
  rw [hparams]
  have kept : ∀ c ∈ s.callers, c.Ok s.params t.life := fun c hc => by
    obtain ⟨hops, hcall, htearing⟩ := hinv c hc
    exact ⟨hops, hcall, hlife ∘ htearing⟩
  rcases step_callers h with hcallers | hhost
  · rwa [hcallers]
  rcases hostStep_callers hhost with hcallers | ⟨k, c, c', hc, hmove, hset⟩
  · rwa [hcallers]
  · intro x hx
    rw [hset] at hx
    rcases List.mem_or_eq_of_mem_set hx with hx | rfl
    · exact kept x hx
    · exact hmove.ok (hinv c (List.mem_of_getElem? hc)) hlife

theorem Cfg.legal_of_init {scl sda rate : Nat} (hwidth : Params.tooWide p scl sda rate = false) (hrate : rate ≠ 0) (hpins : scl ≠ sda) :
    Cfg.legal p { sclPin := scl, sdaPin := sda, clockRate := rate } = true := by
  simp only [Params.tooWide, Bool.or_eq_false_iff, decide_eq_false_iff_not, Nat.not_le] at hwidth
  simp [Cfg.legal, hwidth, hpins, Nat.pos_of_ne_zero hrate]

/-- In CONFIGURED the step of a command leaves CFG and the pins alone. -/
theorem State.lifeInv_of_samePins (hinv : s.LifeInv) (hlife : s.life = .configured) (hpins : s.SamePins t) (hparams : t.params = s.params) :
    t.LifeInv := by
  obtain ⟨hlife', hcfg, hscl, hsda⟩ := hpins
  refine ⟨fun _ => ?_, fun hne => absurd (hlife'.trans hlife) hne⟩
  rw [hcfg, hscl, hsda, hparams]
  exact hinv.1 hlife

theorem State.lifeInv_of_hostStep (hinv : s.LifeInv) (h : hostStep s = .next t) : t.LifeInv := by
  have hparams := hostStep_params h
  unfold State.LifeInv
  rcases hostStep_engine h with
    ⟨hlife, hcfg, -, -, -, -, -, -, -, hscl, hsda, hsclMode, hsdaMode, -⟩ |
    ⟨scl, sda, rate, -, hwidth, hrate, hpins, hlife, hcfg, -, -, -, -, -, -, -, -, -, hsclMode, hsdaMode, -⟩ |
    ⟨-, hlife, -, -, -, -, -, -, -, -, hscl, hsda, hsclMode, hsdaMode, -⟩
  · rw [hlife, hcfg, hscl, hsda, hsclMode, hsdaMode, hparams]
    exact hinv
  · rw [hlife, hcfg, hsclMode, hsdaMode, hparams]
    exact ⟨fun _ => ⟨Cfg.legal_of_init hwidth hrate hpins, rfl, rfl⟩, fun hne => absurd rfl hne⟩
  · rw [hlife, hscl, hsda, hsclMode, hsdaMode]
    exact ⟨nofun, fun _ => ⟨rfl, rfl, rfl, rfl⟩⟩

theorem State.lifeInv_of_step (hengine : s.EngineInv) (hinv : s.LifeInv) (h : step s = .next t) : t.LifeInv := by
  obtain ⟨hparams, -⟩ := step_params h
  rcases step_cases h with ⟨hguard, row, -, rfl⟩ | ⟨-, hlife, w, i, -, -, rfl⟩ | ⟨-, hlife, w, e, -, -, rfl⟩ | ⟨-, -, hhost⟩
  · exact State.lifeInv_of_samePins hinv (hengine.1 hguard).1 (s.samePins_afterMicro row) hparams
  · exact State.lifeInv_of_samePins hinv hlife (s.samePins_accepted i) hparams
  · exact State.lifeInv_of_samePins hinv hlife (s.samePins_acceptIllegal w) hparams
  · exact State.lifeInv_of_hostStep hinv hhost

/-- Settles O33: each part of the invariant is kept on its own, LIFE's with the engine's help. -/
theorem invariantKeptByStep : Obligations.InvariantKeptByStep := by
  rintro s t ⟨hengine, hlife, hcallers, hsizes⟩ h
  obtain ⟨hparams, hlength, -⟩ := step_params h
  refine ⟨State.engineInv_of_step hengine h, State.lifeInv_of_step hengine hlife h, State.callersInv_of_step hcallers h, ?_⟩
  rw [State.SizesInv, hparams, hlength]
  exact hsizes

end Sys2Proof.Machine
end

section
/-! PROOFS. The whole machine: who writes LIFE, CFG, TRACE, the drivers, the data registers and the response (10_state.md), and the
state at reset (70_reset_and_hazards.md section 1). -/

namespace Sys2Proof.Machine

variable {s t : State}

/-! ### LIFE and CFG (R22, R23) -/

theorem State.cmdReady_eq_false_of_life (h : s.life ≠ .configured) : s.cmdReady = false := by
  simp [State.cmdReady, h]

/-- The guard is taken by an acceptance only, on a CONFIGURED bus. -/
theorem life_of_guard_taken (h : step s = .next t) (hfree : s.guard = false) (hheld : t.guard = true) : s.life = .configured := by
  rcases step_cases h with ⟨hguard, -⟩ | ⟨-, hlife, -⟩ | ⟨-, hlife, -⟩ | ⟨-, -, hhost⟩
  · simp [hfree] at hguard
  · exact hlife
  · exact hlife
  · simp [hostStep_guard_of_free hfree hhost] at hheld

/-- CFG is written by a successful INIT only. -/
theorem step_cfg (h : step s = .next t) : t.cfg = s.cfg ∨ (s.life = .unconfigured ∧ t.life = .configured) := by
  rcases step_cases h with ⟨-, row, -, rfl⟩ | ⟨-, -, w, i, -, -, rfl⟩ | ⟨-, -, w, e, -, -, rfl⟩ | ⟨-, -, hhost⟩
  · exact .inl (s.samePins_afterMicro row).2.1
  · exact .inl (s.samePins_accepted i).2.1
  · exact .inl rfl
  · rcases hostStep_engine hhost with ⟨-, hcfg, -⟩ | ⟨_, _, _, hun, -, -, -, hinit⟩ | ⟨-, -, hcfg, -⟩
    · exact .inl hcfg
    · exact .inr ⟨hun, hinit.life_eq⟩
    · exact .inl hcfg

/-- Settles O37: the three things a step can do to LIFE (`step_life`), and what an acceptance, an INIT and a draw leave alone. -/
theorem lifecycleIsOneWay : Obligations.LifecycleIsOneWay := by
  intro s t h
  obtain ⟨hparams, -, hstream⟩ := step_params h
  refine ⟨fun hlife => ?unconfigured, fun hlife => ?configured, fun hlife => ?tornDown, life_of_guard_taken h,
    fun hne => (step_cfg h).resolve_left hne, hparams, hstream⟩
  case unconfigured =>
    rcases step_life h with hkept | ⟨-, -, hconf⟩ | ⟨-, hne, -⟩
    · exact .inl (hkept.trans hlife)
    · exact .inr hconf
    · exact absurd hlife hne
  case configured => exact (step_life h).imp (·.trans hlife) fun hchange => (hchange.resolve_left (by simp [hlife])).2.2
  case tornDown =>
    have hstays : t.life = .tornDown := by
      rcases step_life h with hkept | ⟨-, hun, -⟩ | ⟨-, -, htorn⟩
      · exact hkept.trans hlife
      · simp [hlife] at hun
      · exact htorn
    exact ⟨hstays, State.cmdReady_eq_false_of_life (by simp [hstays])⟩

/-! ### TRACE (R36) -/

theorem State.accepted_trace (s : State) (i : Instr) : (s.accepted i).trace = s.trace ++ [.accept (encode i)] := by
  obtain ⟨-, -, -, -, -, -, htrace, -⟩ := s.accept_fields i
  exact htrace

theorem hostStep_trace (h : hostStep s = .next t) : ∃ es, t.trace = s.trace ++ es := by
  rcases hostStep_engine h with hsame | ⟨scl, sda, rate, -, -, -, -, hinit⟩ | ⟨-, hteardown⟩
  · exact ⟨[], by rw [hsame.trace_eq, List.append_nil]⟩
  · exact ⟨_, hinit.trace_eq.trans s.initialise_trace⟩
  · exact ⟨[.set .scl true, .set .sda true], by rw [hteardown.trace_eq]; simp [State.releaseLine]⟩

/-- Settles O38: every kind of step records at the end of TRACE. -/
theorem traceIsAppendOnly : Obligations.TraceIsAppendOnly := by
  intro s t h
  rcases step_cases h with ⟨-, row, -, rfl⟩ | ⟨-, -, w, i, -, -, rfl⟩ | ⟨-, -, w, e, -, -, rfl⟩ | ⟨-, -, hhost⟩
  · obtain ⟨es, htrace, -⟩ := s.afterMicro_trace row
    exact ⟨_, htrace⟩
  · exact ⟨_, s.accepted_trace i⟩
  · exact ⟨_, s.acceptIllegal_trace w⟩
  · exact hostStep_trace hhost

/-! ### The drivers (R25, R34, R106) -/

theorem State.driver_eq_of_drivers (h : t.drivers = s.drivers) (l : Line) : t.driver l = s.driver l := by
  obtain ⟨hscl, hsda⟩ := State.drivers_eq_iff.mp h
  cases l with
  | scl => exact hscl
  | sda => exact hsda

/-- A micro-operation that changes a line's driver is a SET of that line to its new level. -/
theorem State.eventOf_of_driver_ne (s : State) {m : MicroOp} {l : Line} (hne : (s.perform m).driver l ≠ s.driver l) :
    s.eventOf m = .set l ((s.perform m).driver l) := by
  rw [State.driver_perform] at hne ⊢
  cases m with
  | set l' v =>
    by_cases hl : l' = l
    · simp [State.eventOf, hl]
    · simp [hl] at hne
  | setShiftBit k | setAckReq =>
    by_cases hl : l = .sda
    · simp [State.eventOf, hl]
    · simp [hl] at hne
  | delay | sampleAck | sampleBit k => exact absurd rfl hne

/-- On the host side a driver changes with LIFE only: outside CONFIGURED both lines are released already. -/
theorem hostStep_driver (hinv : s.LifeInv) (h : hostStep s = .next t) {l : Line} (hne : t.driver l ≠ s.driver l) : t.life ≠ s.life := by
  rcases hostStep_engine h with
    ⟨-, -, -, -, -, -, -, -, -, hscl, hsda, -⟩ | ⟨_, _, _, hun, -, -, -, hlife, -⟩ |
    ⟨-, hlife, -, -, -, -, -, -, -, -, hscl, hsda, -⟩
  · cases l with
    | scl => exact absurd hscl hne
    | sda => exact absurd hsda hne
  · rw [hlife, hun]
    simp [State.initialise]
  · rw [hlife]
    intro htorn
    have htorn : s.life ≠ .configured := by simp [← htorn]
    obtain ⟨hscl', hsda', -⟩ := hinv.2 htorn
    cases l with
    | scl => exact hne (hscl.trans hscl'.symm)
    | sda => exact hne (hsda.trans hsda'.symm)

/-- Settles O39: a running command's event is the SET; no acceptance sets a line. -/
theorem driversChangeOnlyBySet : Obligations.DriversChangeOnlyBySet := by
  intro s t l hinv h hne
  rcases step_cases h with ⟨hguard, row, -, rfl⟩ | ⟨-, -, w, i, -, -, rfl⟩ | ⟨-, -, w, e, -, -, rfl⟩ | ⟨hguard, -, hhost⟩
  · refine .inl ⟨hguard, ?_⟩
    obtain ⟨es, htrace, -⟩ := s.afterMicro_trace row
    have same_driver := State.driver_eq_of_drivers
      ((s.perform row.op).afterMicro_drivers (tableOf s.op) (statusOf s.op) (dataOf s.op)) l
    rw [same_driver] at hne ⊢
    exact ⟨es, by rw [htrace, s.eventOf_of_driver_ne hne]⟩
  · obtain ⟨-, -, -, -, -, -, -, -, hscl, hsda, -⟩ := s.accept_fields i
    exact absurd (State.driver_eq_of_drivers (State.drivers_eq_iff.mpr ⟨hscl, hsda⟩) l) hne
  · exact absurd (State.driver_eq_of_drivers (s := s) (t := s.acceptIllegal w) rfl l) hne
  · exact .inr ⟨hguard, hostStep_driver hinv hhost hne⟩

/-! ### The data registers (R30, R31, R32) -/

theorem hostStep_data (h : hostStep s = .next t) : t.shift = s.shift ∧ t.ackReq = s.ackReq ∧ t.ackBit = s.ackBit := by
  rcases hostStep_engine h with
    ⟨-, -, -, -, -, -, hshift, hackReq, hackBit, -⟩ | ⟨_, _, _, -, -, -, -, -, -, -, -, -, -, hshift, hackReq, hackBit, -⟩ |
    ⟨-, -, -, -, -, -, -, hshift, hackReq, hackBit, -⟩ <;> exact ⟨hshift, hackReq, hackBit⟩

/-- Settles O40: by what the step is; an acceptance loads the operand of the word presented. -/
theorem writersOfDataRegisters : Obligations.WritersOfDataRegisters := by
  intro s t h
  rcases step_cases h with ⟨hguard, row, hrow, rfl⟩ | ⟨hguard, -, w, i, hport, hdec, rfl⟩ | ⟨-, -, w, e, -, -, rfl⟩ | ⟨-, -, hhost⟩
  · refine ⟨fun hne => .inl ⟨hguard, ?_⟩, fun hne => absurd (s.afterMicro_ackReq_of_row row) hne, fun hne => ⟨hguard, ?_⟩⟩
    · by_contra hop
      exact hne (afterMicro_shift_of_row hrow hop)
    · by_contra hack
      exact hne (afterMicro_ackBit_of_row hrow fun ⟨hop, hmpc⟩ => hack ⟨hop, BitVec.eq_of_toNat_eq hmpc⟩)
  · refine ⟨fun hne => .inr ⟨hguard, ?_⟩, fun hne => ⟨hguard, ?_⟩, fun hne => absurd (s.accepted_drives i).1 hne⟩
    · cases i with
      | send b => exact ⟨w, b, hport, hdec, rfl⟩
      | start | stop | recv => exact absurd rfl hne
    · cases i with
      | recv k => exact ⟨w, k, hport, hdec, rfl⟩
      | start | stop | send => exact absurd rfl hne
  · exact ⟨fun hne => absurd rfl hne, fun hne => absurd rfl hne, fun hne => absurd rfl hne⟩
  · obtain ⟨hshift, hackReq, hackBit⟩ := hostStep_data hhost
    exact ⟨fun hne => absurd hshift hne, fun hne => absurd hackReq hne, fun hne => absurd hackBit hne⟩

/-! ### The response (R33, R76) -/

theorem hostStep_response (hlife : s.life ≠ .unconfigured) (h : hostStep s = .next t) :
    t.rspValid = s.rspValid ∧ t.rspStatus = s.rspStatus ∧ t.rspData = s.rspData := by
  rcases hostStep_engine h with
    ⟨-, -, -, -, -, -, -, -, -, -, -, -, -, hvalid, hstatus, hdata, -⟩ | ⟨_, _, _, hun, -⟩ |
    ⟨-, -, -, -, -, -, -, -, -, -, -, -, -, -, hvalid, hstatus, hdata, -⟩
  · exact ⟨hvalid, hstatus, hdata⟩
  · exact absurd hun hlife
  · exact ⟨hvalid, hstatus, hdata⟩

theorem State.cmdReady_of_free (hlife : s.life = .configured) (hguard : s.guard = false) : s.cmdReady = true := by
  simp [State.cmdReady, hlife, hguard]

/-- Settles O41: no command runs while a response is valid, and what is accepted is the word presented, which decodes to the
instruction TRACE shows the encoding of. -/
theorem responseHeldUntilNextAcceptance : Obligations.ResponseHeldUntilNextAcceptance := by
  intro s t hinv hlife hvalid h
  rcases step_cases h with ⟨hguard, -⟩ | ⟨hguard, hconf, w, i, hport, hdec, rfl⟩ | ⟨hguard, hconf, w, e, hport, -, rfl⟩ | ⟨-, -, hhost⟩
  · have hinvalid := (hinv.1 hguard).2.1
    simp [hvalid] at hinvalid
  · obtain ⟨-, -, -, -, -, hport', -⟩ := s.accept_fields i
    obtain rfl := (decode_eq_ok_iff w i).mp hdec
    exact .inr ⟨State.cmdReady_of_free hconf hguard, _, [], hport, hport', s.accepted_trace i⟩
  · exact .inr ⟨State.cmdReady_of_free hconf hguard, w, _, hport, rfl, s.acceptIllegal_trace w⟩
  · obtain ⟨hvalid', hstatus, hdata⟩ := hostStep_response hlife hhost
    exact .inl ⟨hvalid'.trans hvalid, hstatus, hdata⟩

/-! ### Reset (R38, R240) -/

theorem Config.params_wf : Params.wf Config.params = true := by
  simp [Params.wf, Config.params]

theorem State.reset_callersInv : State.reset.CallersInv := by
  intro c hc
  obtain rfl := List.eq_of_mem_replicate hc
  exact ⟨nofun, nofun, nofun⟩

theorem System.reset_wf : System.reset.wf = true := by
  have streams : System.reset.buses.map (fun s => s.inputs.stream) = List.range Config.params.numBuses := by
    simp [System.reset, State.resetOfBus, Function.comp_def]
  have count : System.reset.buses.length = Config.params.numBuses := by simp [System.reset]
  have each : ∀ s ∈ System.reset.buses, s.params.numBuses = Config.params.numBuses := by
    intro s hs
    obtain ⟨n, -, rfl⟩ := List.mem_map.mp hs
    rfl
  simp only [System.wf, streams, count, Bool.and_eq_true, decide_eq_true_eq, List.all_eq_true]
  exact ⟨⟨Nat.le_add_left 1 _, each⟩, List.nodup_range⟩

/-- Settles O35: the guard is free, LIFE is UNCONFIGURED with both lines released, and the callers have nothing to do. -/
theorem invariantsHoldAtReset : Obligations.InvariantsHoldAtReset :=
  ⟨⟨State.engineInv_of_free rfl rfl, ⟨nofun, fun _ => ⟨rfl, rfl, rfl, rfl⟩⟩, State.reset_callersInv, Config.params_wf,
      List.length_replicate⟩,
    State.lineInv_of_free rfl nofun, System.reset_wf⟩

end Sys2Proof.Machine
end

section
/-! PROOFS. The host side: whose step it is, the lifecycle operations of a caller, and a command's round trip (30_encoding.md section 3,
60_exceptions.md, 70_reset_and_hazards.md section 1). -/

namespace Sys2Proof.Machine

variable {s t : State} {k : Nat} {c : Caller} {rest : List HostOp}

/-! ### Whose step it is -/

/-- With the guard free and no word on the port the host side moves. -/
theorem step_of_no_word (hguard : s.guard = false) (hport : s.port = none) : step s = hostStep s := by
  have hpick : s.pick = .host := by
    unfold State.pick
    rw [hguard, hport]
    cases s.life <;> rfl
  rw [step, hpick]

theorem hostStep_of_no_owner (howner : s.owner = none) : hostStep s = s.grantStep := by
  rw [hostStep, howner]

/-- A response that is there is collected before anything else (R209). -/
theorem hostStep_of_response (howner : s.owner = some k) (hvalid : s.rspValid = true) (hport : s.port = none) (hguard : s.guard = false) :
    hostStep s = s.collect k := by
  simp [hostStep, howner, hvalid, hport, hguard]

theorem step_of_lone_mover (hguard : s.guard = false) (hport : s.port = none) (howner : s.owner = none) (hcallers : s.callers = [c])
    (hmoves : s.canMove 0 c = true) : step s = s.callerStep 0 := by
  have hmovers : s.movers = [0] := by simp [State.movers, hcallers, List.range_succ, hmoves]
  rw [step_of_no_word hguard hport, hostStep_of_no_owner howner, State.grantStep, hmovers]

/-! ### A caller whose next operation is of the lifecycle (R241, R242, R245) -/

section
variable (howner : s.owner ≠ some k) (hcall : c.call = none)
include howner hcall

theorem State.canMove_of_init {a : Option (Nat × Nat × Nat)} (hnext : c.pending = .init a :: rest) : s.canMove k c = !s.guard := by
  simp [State.canMove, Caller.wantsBus, howner, hcall, hnext]

theorem State.canMove_of_teardown (hnext : c.pending = .teardown :: rest) : s.canMove k c = (!c.tearingDown || !s.guard) := by
  simp [State.canMove, Caller.wantsBus, howner, hcall, hnext]

end

section
variable (hc : s.callers[k]? = some c) (hcall : c.call = none)
include hc hcall

theorem State.callerStep_of_init {a : Option (Nat × Nat × Nat)} (hnext : c.pending = .init a :: rest) :
    s.callerStep k = State.lifecycleReturns k c .initReturned (s.init a) := by
  simp only [State.callerStep, hc, hcall, hnext]

theorem State.callerStep_of_teardown_unchecked (hnext : c.pending = .teardown :: rest) (htearing : c.tearingDown = false) :
    s.callerStep k = s.beginTeardown k c := by
  simp [State.callerStep, hc, hcall, hnext, htearing]

theorem State.callerStep_of_teardown_checked (hnext : c.pending = .teardown :: rest) (htearing : c.tearingDown = true) :
    s.callerStep k = State.lifecycleReturns k { c with tearingDown := false } .teardownReturned s.teardown := by
  simp [State.callerStep, hc, hcall, hnext, htearing]

end

theorem State.beginTeardown_of_configured (hlife : s.life = .configured) (k : Nat) (c : Caller) :
    s.beginTeardown k c = .next (s.setCaller k { c with tearingDown := true }) := by
  simp only [State.beginTeardown, State.teardownRefused, hlife]

theorem State.beginTeardown_of_not_configured (hlife : s.life ≠ .configured) (k : Nat) (c : Caller) :
    s.beginTeardown k c = .refused .teardownOutsideConfigured := by
  cases h : s.life with
  | configured => exact absurd h hlife
  | unconfigured | tornDown => simp only [State.beginTeardown, State.teardownRefused, h]

/-- The state a TEARDOWN leaves (R245). -/
def State.tornDown (s : State) : State :=
  { s with
    life := .tornDown, sclOut := true, sdaOut := true, sclMode := .highImpedance, sdaMode := .highImpedance
    trace := s.trace ++ [.set .scl true] ++ [.set .sda true] }

theorem State.teardown_of_checked (hlife : s.life ≠ .unconfigured) : s.teardown = .next (s.tornDown, .ok) := by
  cases h : s.life with
  | unconfigured => exact absurd h hlife
  | configured | tornDown =>
    simp only [State.teardown, h]
    rfl

/-- Settles O45: the check and the effect are the two branches of the caller's step, and after the effect LIFE stays (O37). -/
theorem teardownReleasesBus : Obligations.TeardownReleasesBus := by
  refine ⟨fun s k c rest hc hcall hnext =>
      ⟨fun htearing hlife => ?refused, fun htearing hlife => ?checked, fun htearing howner => ?waits⟩,
    fun s hlife => ?effect, fun s t hguard h => ?running⟩
  case refused =>
    rw [State.callerStep_of_teardown_unchecked hc hcall hnext htearing, State.beginTeardown_of_not_configured hlife]
  case checked =>
    rw [State.callerStep_of_teardown_unchecked hc hcall hnext htearing, State.beginTeardown_of_configured hlife]
  case waits => simp [State.canMove_of_teardown howner hcall hnext, htearing]
  case effect =>
    have gone : s.tornDown.life ≠ .unconfigured := nofun
    refine ⟨s.tornDown, State.teardown_of_checked hlife, rfl, List.append_assoc .., rfl, rfl, rfl, rfl, rfl, rfl, rfl, rfl, rfl, rfl, rfl,
      rfl, rfl, rfl, rfl, rfl, rfl, rfl, rfl, rfl, rfl, rfl, State.init_outside_unconfigured gone, fun u h => ?_⟩
    obtain ⟨-, -, stays, -⟩ := lifecycleIsOneWay _ _ h
    exact stays rfl
  case running =>
    obtain ⟨row, -, rfl⟩ := step_cases_of_guard hguard h
    exact (s.samePins_afterMicro row).1

theorem State.init_of_tooWide (hlife : s.life = .unconfigured) {scl sda rate : Nat}
    (hwide : 2 ^ s.params.pinW ≤ scl ∨ 2 ^ s.params.pinW ≤ sda ∨ 2 ^ s.params.rateW ≤ rate) :
    s.init (some (scl, sda, rate)) = .next (s, .configurationError) := by
  simp [State.init, hlife, Params.tooWide, or_assoc, hwide]

/-- A lone caller's INIT is one step of the machine. -/
theorem step_of_lone_init {st : Status} {a : Option (Nat × Nat × Nat)} (hcallers : s.callers = [c]) (hcall : c.call = none)
    (howner : s.owner = none) (hport : s.port = none) (hguard : s.guard = false) (hnext : c.pending = .init a :: rest)
    (hinit : s.init a = .next (t, st)) :
    step s = .next { t with callers := [{ c with todo := rest, history := c.history ++ [.initReturned st] }] } := by
  have hmoves : s.canMove 0 c = true := by
    rw [State.canMove_of_init (by simp [howner]) hcall hnext, hguard]
    rfl
  rw [step_of_lone_mover hguard hport howner hcallers hmoves, State.callerStep_of_init (by simp [hcallers]) hcall hnext, hinit,
    State.lifecycleReturns, Caller.finish_of_pending hnext, State.setCaller, State.init_callers hinit, hcallers]
  rfl

/-- Settles O46: the caller is the one that can move, and its step is the lifecycle operation's. -/
theorem callerRunsLifecycle : Obligations.CallerRunsLifecycle := by
  intro s t c st rest hcallers hcall howner hport hguard
  have hc : s.callers[0]? = some c := by simp [hcallers]
  have hfree : s.owner ≠ some 0 := by simp [howner]
  refine ⟨fun a => step_of_lone_init hcallers hcall howner hport hguard, fun hnext htearing hlife => ?check,
    fun hnext htearing hteardown => ?effect, fun scl sda rate hlife hnext hwide =>
      step_of_lone_init hcallers hcall howner hport hguard hnext (State.init_of_tooWide hlife hwide)⟩
  case check =>
    have hmoves : s.canMove 0 c = true := by
      rw [State.canMove_of_teardown hfree hcall hnext, htearing]
      rfl
    rw [step_of_lone_mover hguard hport howner hcallers hmoves, State.callerStep_of_teardown_unchecked hc hcall hnext htearing,
      State.beginTeardown_of_configured hlife, State.setCaller, hcallers]
    rfl
  case effect =>
    have hmoves : s.canMove 0 c = true := by
      rw [State.canMove_of_teardown hfree hcall hnext, hguard]
      exact Bool.or_true _
    have hfinish : ({ c with tearingDown := false } : Caller).finish = { c with todo := rest, tearingDown := false } :=
      Caller.finish_of_pending (c := { c with tearingDown := false }) hnext
    rw [step_of_lone_mover hguard hport howner hcallers hmoves, State.callerStep_of_teardown_checked hc hcall hnext htearing, hteardown,
      State.lifecycleReturns, hfinish, State.setCaller, State.teardown_callers hteardown, hcallers]
    rfl

/-! ### A response and its caller (R76, R209) -/

theorem State.collect_of_onResponse {c' : Caller} (hc : s.callers[k]? = some c)
    (hresponse : c.onResponse s.rspStatus s.rspData = .next c') :
    s.collect k = .next { s with callers := s.callers.set k c', owner := none } := by
  simp only [State.collect, hc, hresponse]
  rfl

theorem step_of_response {c' : Caller} (hguard : s.guard = false) (hport : s.port = none) (howner : s.owner = some k)
    (hvalid : s.rspValid = true) (hc : s.callers[k]? = some c) (hresponse : c.onResponse s.rspStatus s.rspData = .next c') :
    step s = .next { s with callers := s.callers.set k c', owner := none } := by
  rw [step_of_no_word hguard hport, hostStep_of_response howner hvalid hport hguard, State.collect_of_onResponse hc hresponse]

/-- A collection that answers has given its caller the response. -/
theorem State.collect_of_some (hc : s.callers[k]? = some c) (h : s.collect k = .next t) :
    ∃ c', c.onResponse s.rspStatus s.rspData = .next c' ∧ t = { s with callers := s.callers.set k c', owner := none } := by
  cases hresponse : c.onResponse s.rspStatus s.rspData with
  | next c' =>
    rw [State.collect_of_onResponse hc hresponse] at h
    exact ⟨c', rfl, (Host.Outcome.next.inj h).symm⟩
  | fault f | refused r =>
    simp only [State.collect, hc, hresponse] at h
    cases h

/-- Settles O57: only the owner collects, and a caller that moves otherwise presents nothing over an outstanding response. -/
theorem responseGoesToItsCaller : Obligations.ResponseGoesToItsCaller := by
  refine ⟨fun s k c c' _ hguard hport howner hvalid hc hresponse => step_of_response hguard hport howner hvalid hc hresponse,
    fun s t k a howner h => ?_⟩
  cases a with
  | engine => exact .inl ((State.engineStep_owner h).trans howner)
  | caller j =>
    rcases State.stepOfCaller_cases h with rfl | ⟨howner', hvalid, -, -, hcollect⟩ | ⟨c, hc, -, hmoves, hstep⟩
    · exact .inl howner
    · obtain rfl := Option.some.inj (howner.symm.trans howner')
      have freed : t.owner = none := by rcases State.collect_cases hcollect with rfl | ⟨_, _, -, -, rfl⟩ <;> rfl
      refine .inr ⟨rfl, freed, hvalid, fun c hc => ?_⟩
      obtain ⟨c', hresponse, rfl⟩ := State.collect_of_some hc hcollect
      exact ⟨c', hresponse, rfl⟩
    · exact .inl (State.callerStep_keeps_owner howner hc hmoves hstep)

/-! ### A lone caller's command, from presentation to response -/

theorem State.transferStep_of_issues {call : Call} (hissues : call.point.issues = true) (hindex : call.indexOk = true) :
    s.transferStep k c call = .next (s.present k (c.note call.readEvents) (encode call.command)) := by
  cases hpoint : call.point with
  | readT0 | check | backoff => simp [hpoint, Point.issues] at hissues
  | issueStart | issueAddr | issuePayload | issueStop => simp [State.transferStep, hpoint, hindex]

theorem State.canMove_of_ready (hw : c.wantsBus = true) (hlife : s.life = .configured) (hguard : s.guard = false) (hport : s.port = none)
    (howner : s.owner = none) : s.canMove k c = true := by
  simp [State.canMove, hw, State.cmdReady, hlife, hguard, hport, howner]

theorem Caller.onResponse_of_call {call : Call} (hcall : c.call = some call) (hindex : call.indexOk = true) (st : Status) (d : Byte) :
    ∃ c', c.onResponse st d = .next c' := by
  cases h : call.onResponse st d <;> simp [Caller.onResponse, hcall, hindex, h]

theorem State.completed_rspData (s : State) (i : Instr) : (s.completed i).rspData = dataOf (opOf i) (s.performed i) := rfl

/-- The response of a completed command (R77, R130, R132, R134). -/
theorem State.completed_response (s : State) (i : Instr) :
    (i = .start ∨ i = .stop → (s.completed i).rspStatus = .ok ∧ (s.completed i).rspData = 0x00#8)
      ∧ (∀ b, i = .send b →
        (s.completed i).rspStatus = (if (s.completed i).ackBit then .busError else .ok) ∧ (s.completed i).rspData = 0x00#8)
      ∧ (∀ k, i = .recv k → (s.completed i).rspStatus = .ok ∧ (s.completed i).rspData = (s.completed i).shift) := by
  rw [State.completed_rspStatus, State.completed_rspData, State.completed_ackBit, State.completed_shift]
  generalize s.performed i = z
  refine ⟨?startStop, ?send, ?recv⟩
  case startStop => rintro (rfl | rfl) <;> exact ⟨rfl, rfl⟩
  case send =>
    rintro b rfl
    exact ⟨rfl, rfl⟩
  case recv =>
    rintro k rfl
    exact ⟨rfl, rfl⟩

/-- A lone caller inside a TRANSFER presents its command's word. -/
theorem step_of_lone_issue {call : Call} (hlife : s.life = .configured) (hguard : s.guard = false) (hport : s.port = none)
    (howner : s.owner = none) (hcallers : s.callers = [c]) (hcall : c.call = some call) (hissues : call.point.issues = true)
    (hindex : call.indexOk = true) : step s = .next (s.present 0 (c.note call.readEvents) (encode call.command)) := by
  have hwants : c.wantsBus = true := (Caller.wantsBus_of_call hcall).trans hissues
  rw [step_of_lone_mover hguard hport howner hcallers (State.canMove_of_ready hwants hlife hguard hport howner)]
  simp only [State.callerStep, hcallers, List.getElem?_cons_zero, hcall]
  exact State.transferStep_of_issues hissues hindex

/-- A presented word is accepted and runs to completion (R121, R138). -/
theorem run_of_presented (i : Instr) (hlife : s.life = .configured) (hguard : s.guard = false) (hport : s.port = some (encode i)) :
    run (engineSteps i) s = .next (s.completed i) := by
  obtain ⟨haccepted, hcompleted⟩ := exec_run_completed i hlife hguard
  rw [engineSteps, run_succ ((step_of_presented hlife hguard hport (decode_encode i)).trans haccepted), hcompleted]

/-- Settles O54: the caller presents its word, the command completes, and the caller, still the owner, collects. -/
theorem commandRoundTrip : Obligations.CommandRoundTrip := by
  intro s c call hlife hguard hport howner hcallers hcall hissues hindex
  have hpresents := step_of_lone_issue hlife hguard hport howner hcallers hcall hissues hindex
  generalize hs1 : s.present 0 (c.note call.readEvents) (encode call.command) = s1 at hpresents
  obtain ⟨hlife1, hguard1, hport1, howner1, hcallers1⟩ : s1.life = .configured ∧ s1.guard = false
      ∧ s1.port = some (encode call.command) ∧ s1.owner = some 0
      ∧ s1.callers = [c.note (call.readEvents ++ [.issued (encode call.command)])] := by
    subst hs1
    exact ⟨hlife, hguard, rfl, rfl, by simp [hcallers, Caller.note]⟩
  obtain ⟨hcallers2, -, howner2, -⟩ := s1.sameHost_completed call.command
  obtain ⟨hlife2, -⟩ := s1.samePins_completed call.command
  obtain ⟨hstartStop, hsend, hrecv⟩ := s1.completed_response call.command
  obtain ⟨c', hresponse⟩ :=
    Caller.onResponse_of_call (c := c.note (call.readEvents ++ [.issued (encode call.command)])) hcall hindex
      (s1.completed call.command).rspStatus (s1.completed call.command).rspData
  have hcollects := step_of_response (s1.completed_guard _) (s1.completed_port _) (howner2.trans howner1) (s1.completed_rspValid _)
    (k := 0) (by rw [hcallers2, hcallers1]; rfl) hresponse
  refine ⟨{ s1.completed call.command with callers := (s1.completed call.command).callers.set 0 c', owner := none }, _, _, c', ?run,
    ?callers, hresponse, rfl, rfl, rfl, s1.completed_op _, rfl, s1.completed_port _, rfl, hlife2.trans hlife1, hstartStop, hsend, hrecv⟩
  case run =>
    rw [run_succ hpresents, run_add (run_of_presented call.command hlife1 hguard1 hport1) 1, run_succ hcollects, run_zero]
  case callers =>
    simp only [hcallers2, hcallers1]
    rfl

end Sys2Proof.Machine
end

section
/-! PROOFS. Callers beside a running command (41_bus_primitives.md section 6, 20_memory.md section 3). -/

namespace Sys2Proof.Machine

variable {s a t : State} {k : Nat} {c : Caller}

/-! ### The engine's step does not see the callers (R51, R138) -/

/-- The state with other callers and other times still to be read. -/
def State.withHost (s : State) (callers : List Caller) (elapsed : List Nat) : State :=
  { s with callers := callers, inputs := { s.inputs with elapsed := elapsed } }

section
variable (s : State) (cs : List Caller) (es : List Nat)

theorem State.perform_withHost (m : MicroOp) : (s.withHost cs es).perform m = (s.perform m).withHost cs es := by
  have draws : (s.withHost cs es).drawDrive = s.drawDrive.withHost cs es := by
    cases henv : s.inputs.env <;> simp [State.withHost, State.drawDrive, Inputs.nextDrive, Inputs.dropDrive, henv]
  have same_level : (s.withHost cs es).sampleLevel = s.sampleLevel := by
    rw [State.sampleLevel, draws]
    rfl
  cases m with
  | set l v => cases l <;> rfl
  | setShiftBit k | setAckReq | delay => rfl
  | sampleAck =>
    simp only [State.perform, State.microSample, draws, same_level]
    rfl
  | sampleBit k =>
    simp only [State.perform, State.microSample, draws, same_level]
    rfl

theorem State.afterMicro_withHost (o : Op) :
    (s.withHost cs es).afterMicro (tableOf o) (statusOf o) (dataOf o) = (s.afterMicro (tableOf o) (statusOf o) (dataOf o)).withHost cs es := by
  rw [State.afterMicro, State.afterMicro, apply_ite (State.withHost · cs es)]
  cases o <;> rfl

end

theorem State.engineStep_of_guard (hguard : s.guard = true) : s.engineStep = step s := by
  have hpick : s.pick = .run s.inFlight := by simp only [State.pick, hguard]
  rw [State.engineStep, step, hpick]

theorem State.engineStep_withHost (hguard : s.guard = true) (h : s.engineStep = .next a) (cs : List Caller) (es : List Nat) :
    (s.withHost cs es).engineStep = .next (a.withHost cs es) := by
  rw [State.engineStep_of_guard hguard] at h
  obtain ⟨row, hrow, rfl⟩ := step_cases_of_guard hguard h
  rw [State.engineStep_of_guard (s := s.withHost cs es) hguard, step_of_row (s := s.withHost cs es) hguard hrow, State.perform_withHost]
  exact congrArg Host.Outcome.next (State.afterMicro_withHost ..)

/-! ### A caller's step beside a command does not see the engine (R59, R138) -/

/-- What a caller's step beside a command depends on. -/
structure State.SameForCallers (s a : State) : Prop where
  callers : a.callers = s.callers
  owner : a.owner = s.owner
  life : a.life = s.life
  params : a.params = s.params

/-- What a step of caller `k` beside a command can be: its own fields change to `c'`, and a time may be read. It is the same step in every
state with the same callers. -/
def State.MovesBeside (s : State) (k : Nat) (c' : Caller) (next : State → StepOutcome) (t : State) : Prop :=
  (t = s.setCaller k c' ∧ ∀ a, s.SameForCallers a → next a = .next (a.setCaller k c'))
  ∨ (t = s.drawElapsed.setCaller k c' ∧
    ∀ a, s.SameForCallers a → a.inputs.nextElapsed = s.inputs.nextElapsed → next a = .next (a.drawElapsed.setCaller k c'))

theorem Caller.wantsBus_eq_false_of_guard (hguard : s.guard = true) (hmoves : s.canMove k c = true) : c.wantsBus = false := by
  by_contra hw
  have hready := (State.canMove_of_wantsBus (Bool.eq_true_of_not_eq_false hw) hmoves).1
  simp [State.cmdReady, hguard] at hready

theorem State.callerStep_beside (hguard : s.guard = true) (hc : s.callers[k]? = some c) (howner : s.owner ≠ some k)
    (hmoves : s.canMove k c = true) (h : s.callerStep k = .next t) : ∃ c', s.MovesBeside k c' (fun a => a.callerStep k) t := by
  have hw := Caller.wantsBus_eq_false_of_guard hguard hmoves
  have hca : ∀ {a : State}, s.SameForCallers a → a.callers[k]? = some c := fun hsame => hsame.callers ▸ hc
  cases hcall : c.call with
  | some call =>
    rw [Caller.wantsBus_of_call hcall] at hw
    have reading (hpoint : call.point = .readT0 ∨ call.point = .check) : ∃ c', s.MovesBeside k c' (fun a => a.callerStep k) t := by
      rw [State.callerStep_of_reading hc hcall hpoint] at h
      refine ⟨_, .inr ⟨(Host.Outcome.next.inj h).symm, fun a hsame helapsed => ?_⟩⟩
      have same_now : a.nextNow c = s.nextNow c := by rw [State.nextNow, State.nextNow, helapsed]
      exact same_now ▸ State.callerStep_of_reading (hca hsame) hcall hpoint
    cases hpoint : call.point with
    | readT0 => exact reading (.inl hpoint)
    | check => exact reading (.inr hpoint)
    | backoff =>
      rw [State.callerStep_of_backoff hc hcall hpoint] at h
      exact ⟨_, .inl ⟨(Host.Outcome.next.inj h).symm, fun a hsame => State.callerStep_of_backoff (hca hsame) hcall hpoint⟩⟩
    | issueStart | issueAddr | issuePayload | issueStop => simp [hpoint, Point.issues] at hw
  | none =>
    cases hnext : c.pending with
    | nil => simp [State.canMove, howner, Caller.wantsBus, hcall, hnext] at hmoves
    | cons o rest =>
      cases o with
      | issue w => simp [Caller.wantsBus, hcall, hnext] at hw
      | init answer => simp [State.canMove_of_init howner hcall hnext, hguard] at hmoves
      | teardown =>
        have htearing : c.tearingDown = false := by simpa [State.canMove_of_teardown howner hcall hnext, hguard] using hmoves
        rw [State.callerStep_of_teardown_unchecked hc hcall hnext htearing] at h
        obtain ⟨hlife, rfl⟩ := State.beginTeardown_cases h
        refine ⟨_, .inl ⟨rfl, fun a hsame => ?_⟩⟩
        have hlife' : a.life = .configured := hsame.life.trans hlife
        exact (State.callerStep_of_teardown_unchecked (hca hsame) hcall hnext htearing).trans (State.beginTeardown_of_configured hlife' k c)
      | transfer bus dev req =>
        rw [State.callerStep_of_transfer hc hcall hnext] at h
        have hstep {a : State} (hsame : s.SameForCallers a) : a.callerStep k = a.beginTransfer k c bus dev req :=
          State.callerStep_of_transfer (hca hsame) hcall hnext
        rcases State.beginTransfer_cases h with ⟨d, r, hvalid, rfl⟩ | ⟨hinvalid, rfl⟩
        · exact ⟨_, .inl ⟨rfl, fun a hsame => by simp only [hstep hsame, State.beginTransfer, hsame.params, hvalid]⟩⟩
        · exact ⟨_, .inl ⟨rfl, fun a hsame => by simp only [hstep hsame, State.beginTransfer, hsame.params, hinvalid]⟩⟩

/-- A caller that can move beside a command can move once the guard is free, too. -/
theorem State.canMove_of_canMove_beside (hguard : s.guard = true) (howner : a.owner = s.owner) (hmoves : s.canMove k c = true) :
    a.canMove k c = true := by
  have hw := Caller.wantsBus_eq_false_of_guard hguard hmoves
  have hfree : s.owner ≠ some k := fun h => by simp [State.canMove, h] at hmoves
  simp only [State.canMove, hw, hguard, howner, hfree, if_false, Bool.false_eq_true] at hmoves ⊢
  cases hcall : c.call with
  | some call => rfl
  | none =>
    cases hnext : c.pending with
    | nil => simp [hcall, hnext] at hmoves
    | cons o rest =>
      cases o with
      | issue w | init answer => simp [hcall, hnext] at hmoves
      | teardown =>
        have htearing : c.tearingDown = false := by simpa [hcall, hnext] using hmoves
        simp [htearing]
      | transfer bus dev req => rfl

theorem State.stepOfCaller_beside (hguard : s.guard = true) (h : s.stepOfCaller k = .next t) :
    t = s ∨ ∃ c', s.MovesBeside k c' (fun a => a.stepOfCaller k) t := by
  rcases State.stepOfCaller_cases h with rfl | ⟨-, -, -, hfree, -⟩ | ⟨c, hc, howner, hmoves, hstep⟩
  · exact .inl rfl
  · simp [hguard] at hfree
  · have same_step {a : State} (hsame : s.SameForCallers a) : a.stepOfCaller k = a.callerStep k := by
      have hmoves' : a.canMove k c = true := State.canMove_of_canMove_beside hguard hsame.owner hmoves
      simp only [State.stepOfCaller, hsame.callers, hc, hsame.owner, howner, if_false, hmoves', if_true]
    obtain ⟨c', hbeside⟩ := State.callerStep_beside hguard hc howner hmoves hstep
    exact .inr ⟨c', hbeside.imp (And.imp_right fun hnext a hsame => (same_step hsame).trans (hnext a hsame))
      (And.imp_right fun hnext a hsame helapsed => (same_step hsame).trans (hnext a hsame helapsed))⟩

theorem State.setCaller_eq_withHost (s : State) (k : Nat) (c : Caller) :
    s.setCaller k c = s.withHost (s.callers.set k c) s.inputs.elapsed := rfl

theorem State.drawElapsed_setCaller_eq_withHost (s : State) (k : Nat) (c : Caller) (helapsed : s.inputs.elapsed ≠ []) :
    s.drawElapsed.setCaller k c = s.withHost (s.callers.set k c) s.inputs.elapsed.tail := by
  cases h : s.inputs.elapsed with
  | nil => exact absurd h helapsed
  | cons d ds => simp [State.setCaller, State.drawElapsed, State.withHost, Inputs.dropElapsed, h]

/-- The engine's step leaves what a caller's step beside it depends on. -/
theorem State.sameForCallers_of_engineStep (hguard : s.guard = true) (h : s.engineStep = .next a) :
    s.SameForCallers a ∧ a.inputs.elapsed = s.inputs.elapsed := by
  rw [State.engineStep_of_guard hguard] at h
  obtain ⟨row, -, rfl⟩ := step_cases_of_guard hguard h
  obtain ⟨hcallers, -, howner, hparams, helapsed, -⟩ := s.sameHost_afterMicro row
  exact ⟨⟨hcallers, howner, (s.samePins_afterMicro row).1, hparams⟩, helapsed⟩

theorem Inputs.nextElapsed_of_elapsed_eq {x y : Inputs} (h : y.elapsed = x.elapsed) (hne : x.elapsed ≠ []) :
    y.nextElapsed = x.nextElapsed := by
  cases hx : x.elapsed with
  | nil => exact absurd hx hne
  | cons d ds => simp [Inputs.nextElapsed, h, hx]

/-- Settles O14: beside a command the engine and a caller write different fields, and each step is the same whatever the other's fields
hold. -/
theorem callersMoveBesideACommand : Obligations.CallersMoveBesideACommand := by
  refine fun s k hguard => ⟨fun t h => ?frame, fun a t _ helapsed ha ht hne => ?commute⟩
  case frame =>
    rcases State.stepOfCaller_beside hguard h with rfl | ⟨c', ⟨rfl, -⟩ | ⟨rfl, -⟩⟩
    · exact ⟨.rfl' _, rfl, rfl⟩
    · exact ⟨State.setCaller_sameEngine s k c', rfl, rfl⟩
    · exact ⟨State.setCaller_sameEngine s.drawElapsed k c', rfl, rfl⟩
  case commute =>
    obtain ⟨hsame, hsameElapsed⟩ := State.sameForCallers_of_engineStep hguard ha
    have hcallers : a.callers = s.callers := hsame.callers
    rcases (State.stepOfCaller_beside hguard ht).resolve_left hne with ⟨c', ⟨rfl, hnext⟩ | ⟨rfl, hnext⟩⟩
    · refine ⟨a.withHost (s.callers.set k c') s.inputs.elapsed, State.engineStep_withHost hguard ha _ _, (hnext a hsame).trans ?_⟩
      rw [State.setCaller_eq_withHost, hcallers, hsameElapsed]
    · refine ⟨a.withHost (s.callers.set k c') s.inputs.elapsed.tail, ?_,
        (hnext a hsame (Inputs.nextElapsed_of_elapsed_eq hsameElapsed helapsed)).trans ?_⟩
      · rw [State.drawElapsed_setCaller_eq_withHost s k c' helapsed]
        exact State.engineStep_withHost hguard ha _ _
      · rw [State.drawElapsed_setCaller_eq_withHost a k c' (hsameElapsed ▸ helapsed), hcallers, hsameElapsed]

end Sys2Proof.Machine
end

section
/-! PROOFS. The free choice among callers that can move, and a caller that is passed over for ever (60_exceptions.md section 9). -/

namespace Sys2Proof.Machine

variable {s t : State} {c r : Caller} {w : Cmd} {n : Nat}

/-! ### The choice (R229) -/

/-- With more than one caller that can move, the grant's draw picks one. -/
theorem State.grantStep_of_movers {k k' : Nat} {ks : List Nat} (hmovers : s.movers = k :: k' :: ks) :
    s.grantStep = s.drawGrant.callerStep (s.movers.getD (s.inputs.nextGrant % s.movers.length) k) := by
  rw [State.grantStep, hmovers]

/-- The state with the coming grant fixed. -/
def State.withGrant (s : State) (n : Nat) : State :=
  { s with inputs := { s.inputs with grant := n :: s.inputs.grant } }

theorem State.movers_withGrant (s : State) (n : Nat) : (s.withGrant n).movers = s.movers := rfl

theorem State.drawGrant_withGrant (s : State) (n : Nat) : (s.withGrant n).drawGrant = s := rfl

/-- A mover's place among the movers, drawn, lets it move. -/
theorem hostStep_withGrant {k : Nat} (howner : s.owner = none) (hk : k ∈ s.movers) (hmany : 2 ≤ s.movers.length) :
    ∃ n, hostStep (s.withGrant n) = s.callerStep k := by
  obtain ⟨n, hn, rfl⟩ := List.getElem_of_mem hk
  obtain ⟨k0, k1, ks, hmovers⟩ : ∃ k0 k1 ks, s.movers = k0 :: k1 :: ks := by
    match h : s.movers, hmany with
    | k0 :: k1 :: ks, _ => exact ⟨k0, k1, ks, rfl⟩
  refine ⟨n, ?_⟩
  have chosen : s.movers.getD (n % s.movers.length) k0 = s.movers[n] := by
    rw [Nat.mod_eq_of_lt hn, List.getD_eq_getElem _ _ hn]
  rw [hostStep_of_no_owner (s := s.withGrant n) howner, State.grantStep_of_movers (s := s.withGrant n) hmovers, State.drawGrant_withGrant,
    State.movers_withGrant, ← chosen]
  rfl

/-! ### A caller passed over while another one issues a command again and again (R231) -/

/-- Where the busy caller 0 is in its round of presenting `w`, running it and collecting its response. -/
inductive State.Round (w : Cmd) (s : State) : Prop
  | idle (hguard : s.guard = false) (hport : s.port = none) (howner : s.owner = none)
  | presented (hguard : s.guard = false) (hport : s.port = some w) (howner : s.owner = some 0)
  | running (hguard : s.guard = true) (hport : s.port = none) (howner : s.owner = some 0) (hmpc : s.mpc.toNat < lengthOf s.op)
  | answered (hguard : s.guard = false) (hport : s.port = none) (howner : s.owner = some 0) (hvalid : s.rspValid = true)

/-- A caller that has nothing to do but issue `w` for ever. -/
structure Caller.Repeats (w : Cmd) (r : Caller) : Prop where
  call : r.call = none
  todo : r.todo = []
  again : r.again = [.issue w]

/-- Caller 1 is where it was, caller 0 is in its round, and the next `n` grants are caller 0's. -/
structure State.PassedOver (w : Cmd) (c : Caller) (n : Nat) (s : State) : Prop where
  life : s.life = .configured
  callers : ∃ r, r.Repeats w ∧ s.callers = [r, c]
  grant : ∃ g, s.inputs.grant = List.replicate n 0 ++ g
  round : s.Round w

theorem Caller.Repeats.pending (hr : r.Repeats w) : r.pending = [.issue w] := by
  rw [Caller.pending, hr.todo]
  exact hr.again

theorem Caller.Repeats.wantsBus (hr : r.Repeats w) : r.wantsBus = true := by
  simp [Caller.wantsBus, hr.call, hr.pending]

/-- Its response collected, it begins again. -/
theorem Caller.Repeats.onResponse (hr : r.Repeats w) (st : Status) (d : Byte) : ∃ r', r.onResponse st d = .next r' ∧ r'.Repeats w := by
  refine ⟨r.finish.note [.response st d], by simp only [Caller.onResponse, hr.call], hr.call, ?_, hr.again⟩
  rw [Caller.note_todo, Caller.finish_todo, hr.pending]
  rfl

theorem State.grant_of_succ (h : ∃ g, s.inputs.grant = List.replicate (n + 1) 0 ++ g) : ∃ g, s.inputs.grant = List.replicate n 0 ++ g := by
  obtain ⟨g, hg⟩ := h
  exact ⟨0 :: g, by rw [hg, List.replicate_succ', List.append_assoc]; rfl⟩

/-- An engine step goes on in the round. -/
theorem State.PassedOver.of_engine (h : s.PassedOver w c (n + 1)) (hpins : s.SamePins t) (hhost : s.SameHost t) (hround : t.Round w) :
    t.PassedOver w c n := by
  obtain ⟨hlife, -⟩ := hpins
  obtain ⟨hcallers, -, -, -, -, -, hgrant, -⟩ := hhost
  exact ⟨hlife.trans h.life, by rw [hcallers]; exact h.callers, by rw [hgrant]; exact State.grant_of_succ h.grant, hround⟩

theorem State.round_accepted (i : Instr) (hlife : s.life = .configured) (howner : s.owner = some 0) : (s.accepted i).Round w := by
  obtain ⟨hguard, -, -, -, -, hport, -, -, -, -, -, -, -, -, -, -, howner', -⟩ := s.accept_fields i
  obtain ⟨-, -, hmpc, -⟩ := (s.engineInv_accepted i hlife).1 hguard
  exact .running hguard hport (howner'.trans howner) hmpc

theorem State.round_afterMicro {row : MicroRow} (hguard : s.guard = true) (hport : s.port = none) (howner : s.owner = some 0)
    (hrow : (tableOf s.op)[s.mpc.toNat]? = some row) :
    ((s.perform row.op).afterMicro (tableOf s.op) (statusOf s.op) (dataOf s.op)).Round w := by
  obtain ⟨hnext, hlt⟩ := mpc_succ hrow
  rcases Nat.lt_or_eq_of_le (show s.mpc.toNat + 1 ≤ lengthOf s.op from hlt) with hmore | hlast
  · rw [afterMicro_of_lt hrow hmore]
    refine .running (by simp [hguard]) (by simp [hport]) (by simp [howner]) ?_
    rwa [State.putFsm_mpc, State.perform_mpc, hnext, State.putFsm_op, State.perform_op]
  · rw [afterMicro_of_last hrow hlast]
    exact .answered rfl ((s.perform_port row.op).trans hport) ((s.perform_owner row.op).trans howner) rfl

/-- Both callers can move, and the grant lets caller 0 present its word. -/
theorem State.PassedOver.step_idle (h : s.PassedOver w c (n + 1)) (hc : c.wantsBus = true) (hguard : s.guard = false)
    (hport : s.port = none) (howner : s.owner = none) : ∃ t, step s = .next t ∧ t.PassedOver w c n := by
  obtain ⟨r, hr, hcallers⟩ := h.callers
  obtain ⟨g, hgrant⟩ := h.grant
  have moves (k : Nat) {x : Caller} (hx : x.wantsBus = true) : s.canMove k x = true :=
    State.canMove_of_ready hx h.life hguard hport howner
  have hmovers : s.movers = [0, 1] := by simp [State.movers, hcallers, List.range_succ, moves _ hr.wantsBus, moves _ hc]
  have hdraw : s.inputs.nextGrant = 0 := by rw [Inputs.nextGrant, hgrant]; rfl
  have hdrawn : s.drawGrant.inputs.grant = List.replicate n 0 ++ g := by
    rw [State.drawGrant, Inputs.dropGrant, hgrant]
    rfl
  have hpresents : s.drawGrant.callerStep 0 = .next (s.drawGrant.present 0 r w) := by
    simp [State.callerStep, hcallers, hr.call, hr.pending]
  refine ⟨s.drawGrant.present 0 r w, ?_, h.life, ⟨r.note [.issued w], ⟨hr.call, hr.todo, hr.again⟩, ?_⟩, ⟨g, hdrawn⟩,
    .presented hguard rfl rfl⟩
  · rw [step_of_no_word hguard hport, hostStep_of_no_owner howner, State.grantStep_of_movers hmovers, hmovers, hdraw]
    exact hpresents
  · rw [State.present_callers, State.drawGrant_callers, hcallers]
    rfl

/-- Every step goes on in caller 0's round: with the guard held or a response to collect nobody is granted, and the next grant is its
own. -/
theorem State.PassedOver.step (h : s.PassedOver w c (n + 1)) (hc : c.wantsBus = true) :
    ∃ t, Machine.step s = .next t ∧ t.PassedOver w c n := by
  cases h.round with
  | idle hguard hport howner => exact h.step_idle hc hguard hport howner
  | presented hguard hport howner =>
    cases hdec : decode w with
    | ok i =>
      refine ⟨s.accepted i, ?_, h.of_engine (s.samePins_accepted i) (s.sameHost_accepted i) (State.round_accepted i h.life howner)⟩
      rw [step_of_presented h.life hguard hport hdec]
      exact exec_of_ready i hguard h.life
    | error e =>
      exact ⟨s.acceptIllegal w, step_of_illegal h.life hguard hport hdec, h.of_engine (s.samePins_acceptIllegal w)
        (s.sameHost_acceptIllegal w) (.answered hguard rfl howner rfl)⟩
  | running hguard hport howner hmpc =>
    obtain ⟨row, hrow⟩ := exists_row_of_mpc_lt hmpc
    exact ⟨_, step_of_row hguard hrow, h.of_engine (s.samePins_afterMicro row) (s.sameHost_afterMicro row)
      (State.round_afterMicro hguard hport howner hrow)⟩
  | answered hguard hport howner hvalid =>
    obtain ⟨r, hr, hcallers⟩ := h.callers
    obtain ⟨r', hresponse, hr'⟩ := hr.onResponse s.rspStatus s.rspData
    have hcaller : s.callers[0]? = some r := by simp [hcallers]
    refine ⟨_, step_of_response hguard hport howner hvalid hcaller hresponse, h.life, ⟨r', hr', ?_⟩, State.grant_of_succ h.grant,
      .idle hguard hport rfl⟩
    simp only [hcallers]
    rfl

/-- Any number of steps. -/
theorem State.PassedOver.run (h : s.PassedOver w c n) (hc : c.wantsBus = true) :
    ∃ t, Machine.run n s = .next t ∧ t.callers[1]? = some c := by
  induction n generalizing s with
  | zero =>
    obtain ⟨r, -, hcallers⟩ := h.callers
    exact ⟨s, rfl, by simp [hcallers]⟩
  | succ n ih =>
    obtain ⟨t, hstep, ht⟩ := h.step hc
    rw [run_succ hstep]
    exact ih ht

/-- Settles O56: the draw names a mover's place; and with every grant caller 0's, its round goes on for any number of steps. -/
theorem anyWaitingCallerMayMove : Obligations.AnyWaitingCallerMayMove := by
  refine ⟨fun s k howner hk hmany => hostStep_withGrant howner hk hmany,
    fun s r c w n hlife hguard hport howner hcallers hcall htodo hagain hc => ?_⟩
  have hpassed : State.PassedOver w c n { s with inputs := { s.inputs with grant := List.replicate n 0 ++ s.inputs.grant } } :=
    ⟨hlife, ⟨r, ⟨hcall, htodo, hagain⟩, hcallers⟩, ⟨s.inputs.grant, rfl⟩, .idle hguard hport howner⟩
  exact hpassed.run hc

end Sys2Proof.Machine
end

section
/-! PROOFS. Half-bit delays, and the hazards on the wire (70_reset_and_hazards.md sections 3 and 4). -/

namespace Sys2Proof.Machine

/-! ### T_HALF and the DELAYs (R10, R275, R276) -/

theorem tHalf_mul {rate : Nat} (hrate : 0 < rate) : tHalf rate * (2 * (rate : ℚ)) = 1000000 := by
  have rate_ne_zero : (rate : ℚ) ≠ 0 := Nat.cast_ne_zero.mpr hrate.ne'
  unfold tHalf
  field_simp

theorem delaysOf_eq : [Op.start, .stop, .send, .recv].map delaysOf = [4, 3, 27, 19] := by
  decide

theorem checkDelays_eq (i : Nat) : checkDelays .write i = 31 + 27 * i ∧ checkDelays .read i = 31 + 19 * i := by
  obtain ⟨hstart, -, hsend, hrecv⟩ : delaysOf .start = 4 ∧ delaysOf .stop = 3 ∧ delaysOf .send = 27 ∧ delaysOf .recv = 19 := by
    simpa using delaysOf_eq
  simp only [checkDelays, payloadDelays, hstart, hsend, hrecv, Nat.mul_comm i, and_self]

/-- An attempt of `n` bytes is the check before a byte `n`, and a STOP. -/
theorem attemptDelays_eq (dir : Direction) (n : Nat) : attemptDelays dir n = checkDelays dir n + 3 := rfl

/-- Settles O59: counted in the four tables; the rest is arithmetic. -/
theorem halfBitDelays : Obligations.HalfBitDelays := by
  refine ⟨fun _ => tHalf_mul, delaysOf_eq, fun n => ?_, checkDelays_eq⟩
  obtain ⟨hwrite, hread⟩ := checkDelays_eq n
  rw [attemptDelays_eq, attemptDelays_eq, hwrite, hread]
  omega

/-! ### The hazards (R262, R263, R268) -/

theorem traceOf_sendTable (b : Byte) (v : Bool) : traceOf b false sendTable [v] = sendEvents b v := rfl

/-- SEND sets SDA to bit 7 before anything else. -/
theorem sendEvents_eq_cons (b : Byte) (v : Bool) : sendEvents b v = .set .sda (b.getLsbD 7) :: (sendEvents b v).tail := rfl

/-- From 1/1 the first release of SCL is no edge: 7 bits and the acknowledge are left. -/
theorem sclRisesOf_sendEvents_of_released (b : Byte) (v : Bool) :
    sclRisesOf noDevice { scl := true, sda := true } (sendEvents b v) = 8 := by
  have first_bit : sclRisesOf noDevice { scl := true, sda := true } (sendBitEvents b 7) = 0 := by
    simp [sendBitEvents, sclRisesOf, Drivers.after, Drivers.levels, noDevice]
  obtain ⟨hlow, -, hrises⟩ :=
    sendBits_pulses (d := driversAfter { scl := true, sda := true } (sendBitEvents b 7)) rfl b [6, 5, 4, 3, 2, 1, 0]
  obtain ⟨-, hack⟩ := sendAck_pulses hlow v
  rw [sendEvents, List.flatMap_cons, List.append_assoc, sclRisesOf_append, sclRisesOf_append, first_bit, hrises, hack]
  rfl

/-- RECV's rising edges from each entry: its first release of SCL is an edge if SCL was driven low. -/
theorem sclRisesOf_recvTable (scl sda ack : Bool) (vs : List Bool) :
    sclRisesOf noDevice { scl := scl, sda := sda } (traceOf 0#8 ack recvTable vs) = if scl then 8 else 9 := by
  rw [sclRisesOf_traceOf _ _ _ _ _ vs []]
  revert scl sda ack
  decide

/-- Settles O60: the conditions and edges of the four commands' own events. -/
theorem hazardsOnTheWire : Obligations.HazardsOnTheWire := by
  refine ⟨fun b hb => ?startFirst, fun b hb => ⟨?eightEdges, ?stopFirst⟩, fun o a vs => sclRisesOf_recvTable true o a vs,
    fun o a vs => sclRisesOf_recvTable false o a vs, by decide, by decide, by decide, conditionsOf_of_scl_held rfl _ _,
    conditionsOf_of_sda_held rfl _ _⟩
  case eightEdges => rw [traceOf_sendTable, sclRisesOf_sendEvents_of_released]
  case startFirst | stopFirst =>
    rw [traceOf_sendTable, sendEvents_eq_cons, conditionsOf, hb]
    rfl

end Sys2Proof.Machine
end
